-- ==== Sys2Proof/Word.lean ====
section
/-! DEFINITION. The word types of the CORE (spec/00_scope.md R6, R8, R9). All values are unsigned. -/

namespace Sys2Proof

/-- An 8-bit value: a general register, a memory cell, a timer, the immediate `kk` (R6). -/
abbrev Byte := BitVec 8

/-- A 16-bit value: I, PC, a stack entry, an instruction word (R6). -/
abbrev Word := BitVec 16

/-- A general register number 0x0..0xF, also the 4-bit count of Dxyn (10_state.md R21). -/
abbrev Reg := Fin 16

/-- A key number 0x0..0xF (10_state.md R32). -/
abbrev Key := Fin 16

/-- KEY[0..15], true where the key is pressed (10_state.md R32). -/
abbrev KeyState := Vector Bool 16

/-- The register number of VF, the flag register (10_state.md R22). -/
abbrev regF : Reg := 15

end Sys2Proof
end

