-- ==== Sys2Proof/Syntax.lean ====
section
/-! DEFINITION. The 34 instructions (spec/30_encoding.md R86, R87), one constructor per row of spec/opcode_table.json, in the table's
order. Each operand has exactly the range of its field (R82, R84), so every term is an instruction of the machine. -/

namespace Sys2Proof

/-- The instruction set (R87). The number of the row stands before each constructor's word. -/
inductive Instr where
  /-- 1: 00E0 CLS. -/
  | cls
  /-- 2: 00EE RET. -/
  | ret
  /-- 3: 1nnn JP addr. -/
  | jp (nnn : BitVec 12)
  /-- 4: 2nnn CALL addr. -/
  | call (nnn : BitVec 12)
  /-- 5: 3xkk SE Vx,byte. -/
  | seImm (x : Reg) (kk : Byte)
  /-- 6: 4xkk SNE Vx,byte. -/
  | sneImm (x : Reg) (kk : Byte)
  /-- 7: 5xy0 SE Vx,Vy. -/
  | seReg (x y : Reg)
  /-- 8: 6xkk LD Vx,byte. -/
  | ldImm (x : Reg) (kk : Byte)
  /-- 9: 7xkk ADD Vx,byte. -/
  | addImm (x : Reg) (kk : Byte)
  /-- 10: 8xy0 LD Vx,Vy. -/
  | ldReg (x y : Reg)
  /-- 11: 8xy1 OR Vx,Vy. -/
  | orReg (x y : Reg)
  /-- 12: 8xy2 AND Vx,Vy. -/
  | andReg (x y : Reg)
  /-- 13: 8xy3 XOR Vx,Vy. -/
  | xorReg (x y : Reg)
  /-- 14: 8xy4 ADD Vx,Vy. -/
  | addReg (x y : Reg)
  /-- 15: 8xy5 SUB Vx,Vy. -/
  | subReg (x y : Reg)
  /-- 16: 8xy6 SHR Vx; the y field is decoded and not read (R89). -/
  | shr (x y : Reg)
  /-- 17: 8xy7 SUBN Vx,Vy. -/
  | subn (x y : Reg)
  /-- 18: 8xyE SHL Vx; the y field is decoded and not read (R89). -/
  | shl (x y : Reg)
  /-- 19: 9xy0 SNE Vx,Vy. -/
  | sneReg (x y : Reg)
  /-- 20: Annn LD I,addr. -/
  | ldI (nnn : BitVec 12)
  /-- 21: Bnnn JP V0,addr. -/
  | jpV0 (nnn : BitVec 12)
  /-- 22: Cxkk RND Vx,byte. -/
  | rnd (x : Reg) (kk : Byte)
  /-- 23: Dxyn DRW Vx,Vy,n; n rows. -/
  | drw (x y : Reg) (n : Fin 16)
  /-- 24: Ex9E SKP Vx. -/
  | skp (x : Reg)
  /-- 25: ExA1 SKNP Vx. -/
  | sknp (x : Reg)
  /-- 26: Fx07 LD Vx,DT. -/
  | ldVxDT (x : Reg)
  /-- 27: Fx0A LD Vx,K. -/
  | ldVxK (x : Reg)
  /-- 28: Fx15 LD DT,Vx. -/
  | ldDTVx (x : Reg)
  /-- 29: Fx18 LD ST,Vx. -/
  | ldSTVx (x : Reg)
  /-- 30: Fx1E ADD I,Vx. -/
  | addI (x : Reg)
  /-- 31: Fx29 LD F,Vx. -/
  | ldF (x : Reg)
  /-- 32: Fx33 LD B,Vx. -/
  | ldB (x : Reg)
  /-- 33: Fx55 LD [I],Vx. -/
  | storeRegs (x : Reg)
  /-- 34: Fx65 LD Vx,[I]. -/
  | loadRegs (x : Reg)
  deriving DecidableEq, Repr

end Sys2Proof
end

