-- ==== Sys2Proof/WellFormed.lean ====
section
/-! DEFINITION. Well-formedness. The operand types of `Instr` are exactly the fields' ranges, and every value of every field is legal
(spec/10_state.md R22, 30_encoding.md R84), so no `Instr` term is ill-formed. What can be ill-formed is a WORD: this file holds the
opcode map of 30_encoding.md R87 as the spec prints it, mask and match, and the check that a word matches a row of it. It is written
apart from the decoder, so that the two can be compared. -/

namespace Sys2Proof

/-- One row of the opcode map (R87). -/
structure OpRow where
  /-- The mnemonic as spec/opcode_table.json spells it. -/
  mnemonic : String
  /-- The fixed bits' values. -/
  pattern : Word
  /-- The fixed bits. -/
  mask : Word
  deriving DecidableEq, Repr

/-- "A word matches a row when (word & mask) = match" (R87). -/
def OpRow.hits (r : OpRow) (w : Word) : Bool := w &&& r.mask == r.pattern

/-- Rows 1 to 12 of R87. -/
def opcodeMapA : List OpRow :=
  [⟨"CLS", 0x00E0, 0xFFFF⟩, ⟨"RET", 0x00EE, 0xFFFF⟩, ⟨"JP_addr", 0x1000, 0xF000⟩, ⟨"CALL_addr", 0x2000, 0xF000⟩,
   ⟨"SE_Vx_byte", 0x3000, 0xF000⟩, ⟨"SNE_Vx_byte", 0x4000, 0xF000⟩, ⟨"SE_Vx_Vy", 0x5000, 0xF00F⟩,
   ⟨"LD_Vx_byte", 0x6000, 0xF000⟩, ⟨"ADD_Vx_byte", 0x7000, 0xF000⟩, ⟨"LD_Vx_Vy", 0x8000, 0xF00F⟩,
   ⟨"OR_Vx_Vy", 0x8001, 0xF00F⟩, ⟨"AND_Vx_Vy", 0x8002, 0xF00F⟩]

/-- Rows 13 to 23 of R87. -/
def opcodeMapB : List OpRow :=
  [⟨"XOR_Vx_Vy", 0x8003, 0xF00F⟩, ⟨"ADD_Vx_Vy", 0x8004, 0xF00F⟩, ⟨"SUB_Vx_Vy", 0x8005, 0xF00F⟩,
   ⟨"SHR_Vx", 0x8006, 0xF00F⟩, ⟨"SUBN_Vx_Vy", 0x8007, 0xF00F⟩, ⟨"SHL_Vx", 0x800E, 0xF00F⟩,
   ⟨"SNE_Vx_Vy", 0x9000, 0xF00F⟩, ⟨"LD_I_addr", 0xA000, 0xF000⟩, ⟨"JP_V0_addr", 0xB000, 0xF000⟩,
   ⟨"RND_Vx_byte", 0xC000, 0xF000⟩, ⟨"DRW_Vx_Vy_n", 0xD000, 0xF000⟩]

/-- Rows 24 to 34 of R87. -/
def opcodeMapC : List OpRow :=
  [⟨"SKP_Vx", 0xE09E, 0xF0FF⟩, ⟨"SKNP_Vx", 0xE0A1, 0xF0FF⟩, ⟨"LD_Vx_DT", 0xF007, 0xF0FF⟩,
   ⟨"LD_Vx_K", 0xF00A, 0xF0FF⟩, ⟨"LD_DT_Vx", 0xF015, 0xF0FF⟩, ⟨"LD_ST_Vx", 0xF018, 0xF0FF⟩,
   ⟨"ADD_I_Vx", 0xF01E, 0xF0FF⟩, ⟨"LD_F_Vx", 0xF029, 0xF0FF⟩, ⟨"LD_B_Vx", 0xF033, 0xF0FF⟩,
   ⟨"LD__I__Vx", 0xF055, 0xF0FF⟩, ⟨"LD_Vx__I", 0xF065, 0xF0FF⟩]

/-- The opcode map (R87), 34 rows. -/
def opcodeMap : List OpRow := opcodeMapA ++ opcodeMapB ++ opcodeMapC

/-- The word is one of the 34 instructions; otherwise it is illegal (R88). -/
def wordWellFormed (w : Word) : Bool := opcodeMap.any (fun r => r.hits w)

/-- The row of R87 an instruction belongs to, by its mnemonic. -/
def Instr.mnemonic : Instr → String
  | .cls => "CLS" | .ret => "RET" | .jp _ => "JP_addr" | .call _ => "CALL_addr"
  | .seImm _ _ => "SE_Vx_byte" | .sneImm _ _ => "SNE_Vx_byte" | .seReg _ _ => "SE_Vx_Vy"
  | .ldImm _ _ => "LD_Vx_byte" | .addImm _ _ => "ADD_Vx_byte" | .ldReg _ _ => "LD_Vx_Vy"
  | .orReg _ _ => "OR_Vx_Vy" | .andReg _ _ => "AND_Vx_Vy" | .xorReg _ _ => "XOR_Vx_Vy"
  | .addReg _ _ => "ADD_Vx_Vy" | .subReg _ _ => "SUB_Vx_Vy" | .shr _ _ => "SHR_Vx"
  | .subn _ _ => "SUBN_Vx_Vy" | .shl _ _ => "SHL_Vx" | .sneReg _ _ => "SNE_Vx_Vy"
  | .ldI _ => "LD_I_addr" | .jpV0 _ => "JP_V0_addr" | .rnd _ _ => "RND_Vx_byte"
  | .drw _ _ _ => "DRW_Vx_Vy_n" | .skp _ => "SKP_Vx" | .sknp _ => "SKNP_Vx"
  | .ldVxDT _ => "LD_Vx_DT" | .ldVxK _ => "LD_Vx_K" | .ldDTVx _ => "LD_DT_Vx" | .ldSTVx _ => "LD_ST_Vx"
  | .addI _ => "ADD_I_Vx" | .ldF _ => "LD_F_Vx" | .ldB _ => "LD_B_Vx"
  | .storeRegs _ => "LD__I__Vx" | .loadRegs _ => "LD_Vx__I"

end Sys2Proof
end

