-- ==== Sys2Proof/Decode.lean ====
section
/-! DEFINITION. The decoder, a pure function of the word (spec/30_encoding.md R81, R82, R85), total on any bytes and rejecting by name
(R88, R91); after it the encoder, from the layouts of R83 and R87. -/

namespace Sys2Proof

/-! ### Fields (R82) -/

/-- op4 = word[15:12]. -/
def fieldOp4 (w : Word) : Nat := (w.extractLsb' 12 4).toNat
/-- x = word[11:8]. -/
def fieldX (w : Word) : Reg := (w.extractLsb' 8 4).toFin
/-- y = word[7:4]. -/
def fieldY (w : Word) : Reg := (w.extractLsb' 4 4).toFin
/-- n = word[3:0]. -/
def fieldN (w : Word) : Fin 16 := (w.extractLsb' 0 4).toFin
/-- kk = word[7:0]. -/
def fieldKk (w : Word) : Byte := w.extractLsb' 0 8
/-- nnn = word[11:0]. -/
def fieldNnn (w : Word) : BitVec 12 := w.extractLsb' 0 12

/-! ### Dispatch (R85) -/

/-- The group op4 = 0x0, told apart by the whole word. -/
def decodeSystem (w : Word) : Option Instr :=
  if w = 0x00E0#16 then some .cls else if w = 0x00EE#16 then some .ret else none

/-- The group op4 = 0x8, told apart by n. -/
def decodeAlu (x y : Reg) (n : Nat) : Option Instr :=
  match n with
  | 0x0 => some (.ldReg x y)
  | 0x1 => some (.orReg x y)
  | 0x2 => some (.andReg x y)
  | 0x3 => some (.xorReg x y)
  | 0x4 => some (.addReg x y)
  | 0x5 => some (.subReg x y)
  | 0x6 => some (.shr x y)
  | 0x7 => some (.subn x y)
  | 0xE => some (.shl x y)
  | _ => none

/-- The group op4 = 0xE, told apart by kk. -/
def decodeKey (x : Reg) (kk : Nat) : Option Instr :=
  if kk = 0x9E then some (.skp x) else if kk = 0xA1 then some (.sknp x) else none

/-- The group op4 = 0xF, told apart by kk. -/
def decodeMisc (x : Reg) (kk : Nat) : Option Instr :=
  if kk = 0x07 then some (.ldVxDT x)
  else if kk = 0x0A then some (.ldVxK x)
  else if kk = 0x15 then some (.ldDTVx x)
  else if kk = 0x18 then some (.ldSTVx x)
  else if kk = 0x1E then some (.addI x)
  else if kk = 0x29 then some (.ldF x)
  else if kk = 0x33 then some (.ldB x)
  else if kk = 0x55 then some (.storeRegs x)
  else if kk = 0x65 then some (.loadRegs x)
  else none

/-- The decoder on one word (R85): `none` is Undefined (R88), so that it is total (R91). -/
def decode (w : Word) : Option Instr :=
  match fieldOp4 w with
  | 0x0 => decodeSystem w
  | 0x1 => some (.jp (fieldNnn w))
  | 0x2 => some (.call (fieldNnn w))
  | 0x3 => some (.seImm (fieldX w) (fieldKk w))
  | 0x4 => some (.sneImm (fieldX w) (fieldKk w))
  | 0x5 => if (fieldN w).val = 0 then some (.seReg (fieldX w) (fieldY w)) else none
  | 0x6 => some (.ldImm (fieldX w) (fieldKk w))
  | 0x7 => some (.addImm (fieldX w) (fieldKk w))
  | 0x8 => decodeAlu (fieldX w) (fieldY w) (fieldN w).val
  | 0x9 => if (fieldN w).val = 0 then some (.sneReg (fieldX w) (fieldY w)) else none
  | 0xA => some (.ldI (fieldNnn w))
  | 0xB => some (.jpV0 (fieldNnn w))
  | 0xC => some (.rnd (fieldX w) (fieldKk w))
  | 0xD => some (.drw (fieldX w) (fieldY w) (fieldN w))
  | 0xE => decodeKey (fieldX w) (fieldKk w).toNat
  | 0xF => decodeMisc (fieldX w) (fieldKk w).toNat
  | _ => none

/-- A big-endian word from the byte at the lower address and the byte above it (20_memory.md R54). -/
def wordOfBytes (hi lo : Byte) : Word := hi ++ lo

/-- The bits 15..8 of a word, which stand at the lower address (20_memory.md R54). -/
def highByte (w : Word) : Byte := w.extractLsb' 8 8
/-- The bits 7..0 of a word, which stand at the higher address. -/
def lowByte (w : Word) : Byte := w.extractLsb' 0 8

/-- Why a list of bytes gives no instruction. -/
inductive DecodeError where
  /-- Fewer than two bytes: no whole word (R80). -/
  | truncated
  /-- The word matches no row of the opcode map (R88). -/
  | undefinedOpcode (w : Word)
  deriving DecidableEq, Repr

/-- The decoder on a list of bytes: the instruction in its first two bytes and the rest of the list. -/
def decodeBytes : List Byte → Except DecodeError (Instr × List Byte)
  | hi :: lo :: rest =>
    match decode (wordOfBytes hi lo) with
    | some i => .ok (i, rest)
    | none => .error (.undefinedOpcode (wordOfBytes hi lo))
  | _ => .error .truncated

/-- The instruction the decoder reads from a word numbered as spec/opcode_table.json numbers it: laid out as two bytes, the high one
first (20_memory.md R54), and given to `decodeBytes`. Every row of the table is one 16-bit word (R80). -/
def decodeTableWord (nbits w : Nat) : Option Instr :=
  match decodeBytes [highByte (BitVec.ofNat 16 (w % 2 ^ nbits)), lowByte (BitVec.ofNat 16 (w % 2 ^ nbits))] with
  | .ok (i, _) => some i
  | .error _ => none

/-! ### The encoder (R83, R87) -/

/-- Format N: op4 / nnn. -/
def encodeN (op4 : Nat) (nnn : BitVec 12) : Word := BitVec.ofNat 16 (op4 * 0x1000 + nnn.toNat)
/-- Formats XK and XS: op4 / x / kk or the selector. -/
def encodeXK (op4 : Nat) (x : Reg) (kk : Nat) : Word := BitVec.ofNat 16 (op4 * 0x1000 + x.val * 0x100 + kk)
/-- Formats XYS and XYN: op4 / x / y / n or the selector. -/
def encodeXYN (op4 : Nat) (x y : Reg) (n : Nat) : Word := BitVec.ofNat 16 (op4 * 0x1000 + x.val * 0x100 + y.val * 0x10 + n)

/-- The word of an instruction (R87). -/
def encode : Instr → Word
  | .cls => 0x00E0
  | .ret => 0x00EE
  | .jp nnn => encodeN 0x1 nnn
  | .call nnn => encodeN 0x2 nnn
  | .seImm x kk => encodeXK 0x3 x kk.toNat
  | .sneImm x kk => encodeXK 0x4 x kk.toNat
  | .seReg x y => encodeXYN 0x5 x y 0x0
  | .ldImm x kk => encodeXK 0x6 x kk.toNat
  | .addImm x kk => encodeXK 0x7 x kk.toNat
  | .ldReg x y => encodeXYN 0x8 x y 0x0
  | .orReg x y => encodeXYN 0x8 x y 0x1
  | .andReg x y => encodeXYN 0x8 x y 0x2
  | .xorReg x y => encodeXYN 0x8 x y 0x3
  | .addReg x y => encodeXYN 0x8 x y 0x4
  | .subReg x y => encodeXYN 0x8 x y 0x5
  | .shr x y => encodeXYN 0x8 x y 0x6
  | .subn x y => encodeXYN 0x8 x y 0x7
  | .shl x y => encodeXYN 0x8 x y 0xE
  | .sneReg x y => encodeXYN 0x9 x y 0x0
  | .ldI nnn => encodeN 0xA nnn
  | .jpV0 nnn => encodeN 0xB nnn
  | .rnd x kk => encodeXK 0xC x kk.toNat
  | .drw x y n => encodeXYN 0xD x y n.val
  | .skp x => encodeXK 0xE x 0x9E
  | .sknp x => encodeXK 0xE x 0xA1
  | .ldVxDT x => encodeXK 0xF x 0x07
  | .ldVxK x => encodeXK 0xF x 0x0A
  | .ldDTVx x => encodeXK 0xF x 0x15
  | .ldSTVx x => encodeXK 0xF x 0x18
  | .addI x => encodeXK 0xF x 0x1E
  | .ldF x => encodeXK 0xF x 0x29
  | .ldB x => encodeXK 0xF x 0x33
  | .storeRegs x => encodeXK 0xF x 0x55
  | .loadRegs x => encodeXK 0xF x 0x65

/-- The two bytes of an instruction in the order of their addresses (20_memory.md R54). -/
def encodeBytes (i : Instr) : List Byte := [highByte (encode i), lowByte (encode i)]

end Sys2Proof
end

