-- ==== Sys2Proof/Config.lean ====
section
/-! DEFINITION. What the implementation fixes (spec/00_scope.md R6), the parameters the spec leaves open (R7), and the one free
value, draw8 (R7, R10). -/

namespace Sys2Proof

/-- MEM_SIZE: the cells 0x000..0xFFF (R6). -/
abbrev Config.memSize : Nat := 4096

/-- PROG_BASE: where the image is placed and where PC starts (R6). -/
abbrev Config.progBase : Nat := 0x200

/-- PROG_MAX: the longest image, in bytes (R6). -/
abbrev Config.progMax : Nat := 3584

/-- GLYPH_BASE..: the number of bytes of the glyph table, which starts at address 0 (R6). -/
abbrev Config.glyphBytes : Nat := 80

/-- draw8() (R10, 43_alu.md R185): the value of the n-th draw. It has no body, so nothing about it can be proved and every claim
holds for every sequence of draws (notes/assumptions/4.md; safe). -/
opaque Config.draw8 : Nat → Byte

/-- The parameter FX1E_VF_IN_RANGE (R7, 44_index_memory.md R202): what Fx1E writes to VF when I + Vx <= 0xFFF. -/
inductive Fx1eVf where
  /-- VF <- 0 (the spec's default). -/
  | zero
  /-- VF unchanged. -/
  | keep
  /-- VF <- draw8(). -/
  | draw
  deriving DecidableEq, Repr

/-- The parameters of R7 that a step reads, as plain data. No step and no host operation changes them
(notes/assumptions/2.md, notes/assumptions/3.md). GLYPHS, the third parameter, is read by construction alone. -/
structure Params where
  /-- FX1E_VF_IN_RANGE. -/
  fx1eVf : Fx1eVf
  /-- KEY_SELECT as a table from pressed sets to keys. A set with no row, or with a row that names a key outside it, selects its
  lowest key, so the empty table is the spec's default and every KEY_SELECT function is some table. -/
  keySelect : List (KeyState × Key)
  deriving DecidableEq, Repr

/-- The spec's defaults (R7): FX1E_VF_IN_RANGE = zero, KEY_SELECT = lowest. -/
def Params.default : Params := ⟨.zero, []⟩

end Sys2Proof
end

