-- ==== Sys2Proof/Machine/State.lean ====
section
/-! DEFINITION. The architectural state (spec/10_state.md R20), as plain data, and its value after construction (R38). -/

namespace Sys2Proof.Machine

/-- MEM (R34): the cells that differ from what they hold after construction with the default glyph table and an empty image
(`Memory.initial`), addresses strictly rising. -/
abbrev Memory := List Host.Cell

/-- DISP[row][column] (R33). -/
abbrev Display := Vector (Vector Bool 64) 32

/-- MODE (R35). -/
inductive Mode where
  /-- Ready to fetch. -/
  | ready
  /-- Blocked in the Fx0A at PC, which stores to Vx. -/
  | awaitKey (x : Reg)
  deriving DecidableEq, Repr

/-- The step faults (60_exceptions.md R241, codes 1 to 6). -/
inductive FaultCode where
  /-- 1: raised by the fetch (R242). -/
  | fetchOutOfRange
  /-- 2: raised by decode (R243). -/
  | undefinedOpcode
  /-- 3: raised by CALL (R244). -/
  | stackOverflow
  /-- 4: raised by RET (R245). -/
  | stackUnderflow
  /-- 5: raised by DRW, LD B, LD [I],Vx and LD Vx,[I] (R246). -/
  | dataOutOfRange
  /-- 6: raised by SKP and SKNP (R247). -/
  | keyIndexOutOfRange
  deriving DecidableEq, Repr

/-- The detail of a report (R241). -/
inductive FaultDetail where
  /-- No detail. -/
  | noDetail
  /-- DataOutOfRange: the lowest access address above 0xFFF. -/
  | address (a : Word)
  /-- KeyIndexOutOfRange: the value of Vx. -/
  | value (v : Byte)
  deriving DecidableEq, Repr

/-- A fault report (R241). Its fields name, class and number are functions of `code` (`FaultCode.name`, `FaultCode.fatal`,
`FaultCode.number`). -/
structure FaultReport where
  code : FaultCode
  /-- PC at the start of the faulting step. -/
  pc : Word
  /-- The fetched word, or none for FetchOutOfRange. -/
  word : Option Word
  detail : FaultDetail
  deriving DecidableEq, Repr

/-- The state record of R20, and the model's own two fields. -/
structure State where
  /-- V0..VF (R21). -/
  v : Vector Byte 16
  /-- The index register I (R25). -/
  i : Word
  /-- The program counter (R26). -/
  pc : Word
  /-- The number of entries on the call stack, 0..16 (R29). -/
  sp : Fin 17
  /-- STACK[0..15] (R30). -/
  stack : Vector Word 16
  /-- MEM (R34). -/
  mem : Memory
  /-- DISP (R33). -/
  disp : Display
  /-- KEY[0..15] (R32). -/
  keys : KeyState
  /-- The delay timer (R31). -/
  dt : Byte
  /-- The sound timer (R31). -/
  st : Byte
  /-- MODE (R35). -/
  mode : Mode
  /-- FAULT (R36). -/
  fault : Option FaultReport
  /-- The model's own: the parameters of 00_scope.md R7, which no operation changes (notes/assumptions/2.md and 3.md). -/
  params : Params
  /-- The model's own: how many draws have been taken, which names the next value of draw8() (notes/assumptions/4.md). -/
  draws : Nat
  deriving DecidableEq, Repr

/-- The machine after Construct with an empty image and the default GLYPHS (R38, 70_reset_and_hazards.md R280). -/
def State.reset : State where
  v := Vector.replicate 16 0
  i := 0
  pc := 0x200
  sp := 0
  stack := Vector.replicate 16 0
  mem := []
  disp := Vector.replicate 32 (Vector.replicate 64 false)
  keys := Vector.replicate 16 false
  dt := 0
  st := 0
  mode := .ready
  fault := none
  params := Params.default
  draws := 0

/-- The ways a step could stop the model. There is none: the spec describes the entry of every fault it names (60_exceptions.md R248)
and what every later step does (R250), so a fault of the CORE is a NEXT state whose `fault` is set. -/
inductive Fault where
  deriving DecidableEq, Repr

/-- The reasons to give an instruction no meaning. -/
inductive Refusal where
  /-- An instruction not yet modelled, by its mnemonic. No arm of `exec` raises it. Safe: the model stops. -/
  | notModelled (mnemonic : String)
  deriving DecidableEq, Repr

end Sys2Proof.Machine
end

