-- ==== Sys2Proof/Machine/Ops.lean ====
section
/-! DEFINITION. The named operations over memory and registers, and fault entry, which every meaning shares
(spec/00_scope.md R10, 10_state.md, 20_memory.md, 60_exceptions.md R241, R248). -/

namespace Sys2Proof.Machine

/-! ### Memory -/

/-- The default GLYPHS (70_reset_and_hazards.md R283): "the conventional CHIP-8 hexadecimal font", glyph d at 5*d .. 5*d+4
(notes/assumptions/1.md). -/
def defaultGlyphs : List Byte :=
  ([0xF0, 0x90, 0x90, 0x90, 0xF0, 0x20, 0x60, 0x20, 0x20, 0x70, 0xF0, 0x10, 0xF0, 0x80, 0xF0, 0xF0, 0x10, 0xF0, 0x10, 0xF0] : List Byte)
  ++ ([0x90, 0x90, 0xF0, 0x10, 0x10, 0xF0, 0x80, 0xF0, 0x10, 0xF0, 0xF0, 0x80, 0xF0, 0x90, 0xF0, 0xF0, 0x10, 0x20, 0x40, 0x40] : List Byte)
  ++ ([0xF0, 0x90, 0xF0, 0x90, 0xF0, 0xF0, 0x90, 0xF0, 0x10, 0xF0, 0xF0, 0x90, 0xF0, 0x90, 0x90, 0xE0, 0x90, 0xE0, 0x90, 0xE0] : List Byte)
  ++ ([0xF0, 0x80, 0x80, 0x80, 0xF0, 0xE0, 0x90, 0x90, 0x90, 0xE0, 0xF0, 0x80, 0xF0, 0x80, 0xF0, 0xF0, 0x80, 0xF0, 0x80, 0x80] : List Byte)

/-- What an unlisted cell reads as: the contents after construction (10_state.md R38), the glyph table at 0x000..0x04F and 0 above. -/
def Memory.initial (a : Nat) : Byte := defaultGlyphs.getD a 0

/-- MemRead(a, 1) (R10). -/
def Memory.read : Memory → Nat → Byte
  | [], a => Memory.initial a
  | c :: m, a => if a = c.1 then c.2 else Memory.read m a

/-- Unlist the cell at `a`. -/
def Memory.erase (m : Memory) (a : Nat) : Memory := m.filter (fun c => c.1 != a)

/-- List a cell before the first one of a higher address. -/
def Memory.insert : Memory → Nat → Byte → Memory
  | [], a, b => [(a, b)]
  | c :: m, a, b => if a < c.1 then (a, b) :: c :: m else c :: Memory.insert m a b

/-- MemWrite(a, 1, b) (R10), for a <= 0xFFF. A cell that gets back its construction value is unlisted. -/
def Memory.write (m : Memory) (a : Nat) (b : Byte) : Memory :=
  if b = Memory.initial a then Memory.erase m a else Memory.insert (Memory.erase m a) a b

/-- MemWrite of consecutive bytes from `a` up, in the order of their addresses. -/
def Memory.writeBytes : Memory → Nat → List Byte → Memory
  | m, _, [] => m
  | m, a, b :: bs => Memory.writeBytes (Memory.write m a b) (a + 1) bs

/-- The canonical form from address `lo` up. -/
def Memory.wfFrom : Nat → Memory → Bool
  | _, [] => true
  | lo, c :: m => decide (lo ≤ c.1) && decide (c.1 < Config.memSize) && (c.2 != Memory.initial c.1) && Memory.wfFrom (c.1 + 1) m

/-- The canonical form: addresses strictly rising and below 4096, and no cell equal to what an unlisted one reads as. -/
def Memory.wf (m : Memory) : Bool := Memory.wfFrom 0 m

/-- The byte at address a. -/
def State.readMem (s : State) (a : Nat) : Byte := Memory.read s.mem a

/-- Store consecutive bytes from address a up. -/
def State.storeBytes (s : State) (a : Nat) (bs : List Byte) : State := { s with mem := Memory.writeBytes s.mem a bs }

/-! ### Registers -/

/-- V[r] (R10). -/
def State.getV (s : State) (r : Reg) : Byte := s.v[r.val]

/-- V[r] <- b (R10). -/
def State.setV (s : State) (r : Reg) (b : Byte) : State := { s with v := s.v.set r.val b }

/-- I <- w. -/
def State.setI (s : State) (w : Word) : State := { s with i := w }

/-- PC <- target; targets are not aligned, masked or checked (41_flow.md R130). -/
def State.jump (s : State) (target : Word) : State := { s with pc := target }

/-- PC <- PC + 2 (10_state.md R27, sequential). -/
def State.advance (s : State) : State := { s with pc := s.pc + 2 }

/-- PC <- PC + 4 if the condition holds, else PC + 2 (42_skips.md R150). -/
def State.skipIf (s : State) (c : Bool) : State := { s with pc := if c then s.pc + 4 else s.pc + 2 }

/-- DT <- b. -/
def State.setDt (s : State) (b : Byte) : State := { s with dt := b }

/-- ST <- b. -/
def State.setSt (s : State) (b : Byte) : State := { s with st := b }

/-- MODE <- m. -/
def State.setMode (s : State) (m : Mode) : State := { s with mode := m }

/-- DISP <- d. -/
def State.setDisp (s : State) (d : Display) : State := { s with disp := d }

/-- DISP[r][c] (R10). -/
def State.pixel (s : State) (r : Fin 32) (c : Fin 64) : Bool := s.disp[r.val][c.val]

/-- The register file with V0..Vx replaced by the values `f` gives, the others kept. -/
def State.setRegsTo (s : State) (x : Reg) (f : Nat → Byte) : State :=
  { s with v := Vector.ofFn (fun j : Fin 16 => if j.val ≤ x.val then f j.val else s.v[j.val]) }

/-- V0..Vx in order. -/
def State.regsTo (s : State) (x : Reg) : List Byte := s.v.toList.take (x.val + 1)

/-! ### The call stack (10_state.md R30) -/

/-- `STACK[SP] <- w; SP <- SP + 1`, for SP < 16. -/
def State.push (s : State) (w : Word) (h : s.sp.val < 16) : State :=
  { s with stack := s.stack.set s.sp.val w, sp := ⟨s.sp.val + 1, by omega⟩ }

/-- The entry that a pop returns, STACK[SP - 1], for SP > 0. -/
def State.top (s : State) (h : 0 < s.sp.val) : Word := s.stack[s.sp.val - 1]'(by omega)

/-- `SP <- SP - 1`, for SP > 0. -/
def State.drop (s : State) (h : 0 < s.sp.val) : State := { s with sp := ⟨s.sp.val - 1, by omega⟩ }

/-! ### Draws and keys -/

/-- The value of the next draw8(). -/
def State.drawn (s : State) : Byte := Config.draw8 s.draws

/-- The draw has been taken: the next one is another free value. -/
def State.tookDraw (s : State) : State := { s with draws := s.draws + 1 }

/-- The pressed keys, lowest first: the set P of 45_timers_input.md R221. -/
def pressedKeys (keys : KeyState) : List Key := (List.finRange 16).filter (fun k => keys[k.val])

/-- KEY_SELECT(P) (00_scope.md R7): the key the parameter's row for this pressed set names, if it is in the set, else the lowest one;
`none` when P is empty. -/
def selectKey (p : Params) (keys : KeyState) : Option Key :=
  match (pressedKeys keys).head? with
  | none => none
  | some lowest =>
    match p.keySelect.lookup keys with
    | some k => if keys[k.val] then some k else some lowest
    | none => some lowest

/-! ### Fault entry (60_exceptions.md R241, R248) -/

/-- The code number (R241). -/
def FaultCode.number : FaultCode → Nat
  | .fetchOutOfRange => 1
  | .undefinedOpcode => 2
  | .stackOverflow => 3
  | .stackUnderflow => 4
  | .dataOutOfRange => 5
  | .keyIndexOutOfRange => 6

/-- The name (R241). -/
def FaultCode.name : FaultCode → String
  | .fetchOutOfRange => "FetchOutOfRange"
  | .undefinedOpcode => "UndefinedOpcode"
  | .stackOverflow => "StackOverflow"
  | .stackUnderflow => "StackUnderflow"
  | .dataOutOfRange => "DataOutOfRange"
  | .keyIndexOutOfRange => "KeyIndexOutOfRange"

/-- Whether the class is fatal; every other code is recoverable (R240, R241, R243). -/
def FaultCode.fatal : FaultCode → Bool
  | .fetchOutOfRange => false
  | .undefinedOpcode => true
  | .stackOverflow => false
  | .stackUnderflow => false
  | .dataOutOfRange => false
  | .keyIndexOutOfRange => false

/-- Fault entry (R248), applied to the state at the start of the step: every component but FAULT keeps its value, and FAULT <- report.
There is no return from it (R251): the only way to run again is to construct a new machine. -/
def State.raise (s : State) (code : FaultCode) (word : Option Word) (detail : FaultDetail) : State :=
  { s with fault := some ⟨code, s.pc, word, detail⟩ }

/-- Fault entry from the rule of an instruction: the report's word is that instruction's word. -/
def State.raiseBy (s : State) (i : Instr) (code : FaultCode) (detail : FaultDetail) : State :=
  s.raise code (some (encode i)) detail

end Sys2Proof.Machine
end

