-- ==== Sys2Proof/Machine/Operands.lean ====
section
/-! DEFINITION. Operand forms (spec/30_encoding.md R84): registers and `kk` are used as they are, addresses are zero-extended, and the one
data addressing mode is register-indirect through I (44_index_memory.md R201), its addresses checked before any access
(20_memory.md R56). -/

namespace Sys2Proof.Machine

/-- zext_16 of an address field (R84). -/
def addr16 (nnn : BitVec 12) : Word := nnn.setWidth 16

/-- zext_16 of a register value (00_scope.md R9). -/
def byte16 (b : Byte) : Word := b.setWidth 16

/-- The byte that holds a key number (45_timers_input.md R221). -/
def keyByte (k : Key) : Byte := BitVec.ofNat 8 k.val

/-- Every address I .. I + len - 1 exists (R56, R57); an access of no bytes always does (40_display.md R112, n = 0). The sum is exact. -/
def State.dataInRange (s : State) (len : Nat) : Bool := decide (len = 0) || decide (s.i.toNat + len ≤ Config.memSize)

/-- The lowest access address above 0xFFF, max(I, 0x1000) (60_exceptions.md R241). -/
def State.badDataAddress (s : State) : Word := if s.i.toNat < 0x1000 then 0x1000 else s.i

/-- DataOutOfRange raised by an instruction (R246). -/
def State.raiseData (s : State) (i : Instr) : State := s.raiseBy i .dataOutOfRange (.address s.badDataAddress)

/-- The key a register value names, if it names one of the 16 (42_skips.md R155). -/
def keyOf (b : Byte) : Option Key := if h : b.toNat < 16 then some ⟨b.toNat, h⟩ else none

/-- The three decimal digits of a value, hundreds first (44_index_memory.md R206). -/
def decimalDigits (b : Byte) : List Byte :=
  [BitVec.ofNat 8 (b.toNat / 100), BitVec.ofNat 8 (b.toNat / 10 % 10), BitVec.ofNat 8 (b.toNat % 10)]

end Sys2Proof.Machine
end

