-- ==== Sys2Proof/Machine/Flags.lean ====
section
/-! DEFINITION. The flag VF (spec/10_state.md R22 to R24, 43_alu.md R186): its computations, and its being written last (R23). -/

namespace Sys2Proof.Machine

/-- A flag value as a register value. -/
def flagByte (b : Bool) : Byte := if b then 1 else 0

/-- Carry out of 8xy4: sum > 255 (R180). -/
def carryOut (a b : Byte) : Bool := decide (a.toNat + b.toNat > 255)

/-- No borrow: the minuend is greater than or equal to the subtrahend (R181, R183). -/
def noBorrow (minuend subtrahend : Byte) : Bool := decide (minuend.toNat ≥ subtrahend.toNat)

/-- The bit a right shift drops (R182). -/
def lowBit (a : Byte) : Bool := a.getLsbD 0

/-- The bit a left shift drops (R184). -/
def highBit (a : Byte) : Bool := a.getLsbD 7

/-- VF <- flag. -/
def State.setFlag (s : State) (flag : Bool) : State := s.setV regF (flagByte flag)

/-- The end of an instruction that writes Vx and a flag: Vx first, VF last, so that for x = 0xF the flag stays (R23). -/
def State.writeWithFlag (s : State) (x : Reg) (result : Byte) (flag : Bool) : State :=
  ((s.setV x result).setFlag flag).advance

/-- VF of an Fx1E whose sum is in range, as FX1E_VF_IN_RANGE says (44_index_memory.md R202). -/
def State.setFlagInRange (s : State) : State :=
  match s.params.fx1eVf with
  | .zero => s.setFlag false
  | .keep => s
  | .draw => (s.setV regF s.drawn).tookDraw

end Sys2Proof.Machine
end

