-- ==== Sys2Proof/Machine/Display.lean ====
section
/-! DEFINITION. The display instructions (spec/40_display.md R110 to R112). -/

namespace Sys2Proof.Machine

/-- A display with every pixel 0. -/
def blankDisplay : Display := Vector.replicate 32 (Vector.replicate 64 false)

/-- The display and the collision flag while a sprite is drawn (R112). -/
structure Canvas where
  disp : Display
  collision : Bool
  deriving DecidableEq, Repr

/-- XOR a 1 onto one pixel: note a collision if it is set, then invert it (R112). -/
def flipPixel (a : Canvas) (r : Fin 32) (c : Fin 64) : Canvas where
  disp := a.disp.set r.val (a.disp[r.val].set c.val (!a.disp[r.val][c.val]))
  collision := a.collision || a.disp[r.val][c.val]

/-- The display row of a sprite row (R111): (cy + row) mod 32. -/
def spriteRow (cy row : Nat) : Fin 32 := ⟨(cy + row) % 32, Nat.mod_lt _ (by decide)⟩

/-- The display column of a sprite column (R111): (cx + col) mod 64. -/
def spriteCol (cx col : Nat) : Fin 64 := ⟨(cx + col) % 64, Nat.mod_lt _ (by decide)⟩

/-- One row of a sprite: bit 7 - col goes to column col (R111, R112). -/
def drawByte (cx cy row : Nat) (sprite : Byte) (a : Canvas) : Canvas :=
  (List.range 8).foldl
    (fun a col => if sprite.getLsbD (7 - col) then flipPixel a (spriteRow cy row) (spriteCol cx col) else a) a

/-- The n rows of a sprite at `base` (R112). -/
def drawSprite (m : Memory) (base n cx cy : Nat) (a : Canvas) : Canvas :=
  (List.range n).foldl (fun a row => drawByte cx cy row (Memory.read m (base + row)) a) a

/-- CLS (R110). -/
def execCls (s : State) : Host.Outcome State Fault Refusal := .next (s.setDisp blankDisplay).advance

/-- The completed DRW (R112): the canvas starts from DISP with no collision, and VF is written after it. -/
def State.canvas (s : State) (x y : Reg) (n : Nat) : Canvas :=
  drawSprite s.mem s.i.toNat n (s.getV x).toNat (s.getV y).toNat ⟨s.disp, false⟩

/-- DRW Vx,Vy,n (R112). -/
def execDrw (x y : Reg) (n : Fin 16) (s : State) : Host.Outcome State Fault Refusal :=
  if s.dataInRange n.val then
    .next ((s.setDisp (s.canvas x y n.val).disp).setFlag (s.canvas x y n.val).collision).advance
  else .next (s.raiseData (.drw x y n))

end Sys2Proof.Machine
end

