-- ==== Sys2Proof/Machine/Flow.lean ====
section
/-! DEFINITION. Control transfer (spec/41_flow.md R130 to R134). -/

namespace Sys2Proof.Machine

/-- RET (R131). -/
def execRet (s : State) : Host.Outcome State Fault Refusal :=
  if h : 0 < s.sp.val then .next ((s.drop h).jump (s.top h))
  else .next (s.raiseBy .ret .stackUnderflow .noDetail)

/-- JP addr (R132). -/
def execJp (nnn : BitVec 12) (s : State) : Host.Outcome State Fault Refusal := .next (s.jump (addr16 nnn))

/-- CALL addr (R133): the address of the next instruction is pushed. -/
def execCall (nnn : BitVec 12) (s : State) : Host.Outcome State Fault Refusal :=
  if h : s.sp.val < 16 then .next ((s.push (s.pc + 2) h).jump (addr16 nnn))
  else .next (s.raiseBy (.call nnn) .stackOverflow .noDetail)

/-- JP V0,addr (R134): the sum is exact, since it is at most 0x10FE. -/
def execJpV0 (nnn : BitVec 12) (s : State) : Host.Outcome State Fault Refusal :=
  .next (s.jump (addr16 nnn + byte16 (s.getV 0)))

end Sys2Proof.Machine
end

