-- ==== Sys2Proof/Machine/Index.lean ====
section
/-! DEFINITION. The index register and data memory (spec/44_index_memory.md R200 to R210). -/

namespace Sys2Proof.Machine

/-- LD I,addr (R200). -/
def execLdI (nnn : BitVec 12) (s : State) : Host.Outcome State Fault Refusal := .next (s.setI (addr16 nnn)).advance

/-- ADD I,Vx (R202): the sum is exact, I saturates at 0xFFF, VF is written last. -/
def execAddI (x : Reg) (s : State) : Host.Outcome State Fault Refusal :=
  if s.i.toNat + (s.getV x).toNat > 0xFFF then .next ((s.setI 0xFFF).setFlag true).advance
  else .next ((s.setI (s.i + byte16 (s.getV x))).setFlagInRange).advance

/-- LD F,Vx (R204): no mask. -/
def execLdF (x : Reg) (s : State) : Host.Outcome State Fault Refusal := .next (s.setI (byte16 (s.getV x) * 5)).advance

/-- LD B,Vx (R206). -/
def execLdB (x : Reg) (s : State) : Host.Outcome State Fault Refusal :=
  if s.dataInRange 3 then .next (s.storeBytes s.i.toNat (decimalDigits (s.getV x))).advance
  else .next (s.raiseData (.ldB x))

/-- I + x + 1, the index after a block transfer (R208, R210); exact, since it is at most 0x1000. -/
def State.indexAfter (s : State) (x : Reg) : Word := s.i + BitVec.ofNat 16 (x.val + 1)

/-- LD [I],Vx (R208). -/
def execStoreRegs (x : Reg) (s : State) : Host.Outcome State Fault Refusal :=
  if s.dataInRange (x.val + 1) then .next ((s.storeBytes s.i.toNat (s.regsTo x)).setI (s.indexAfter x)).advance
  else .next (s.raiseData (.storeRegs x))

/-- LD Vx,[I] (R210). -/
def execLoadRegs (x : Reg) (s : State) : Host.Outcome State Fault Refusal :=
  if s.dataInRange (x.val + 1) then
    .next ((s.setRegsTo x (fun j => s.readMem (s.i.toNat + j))).setI (s.indexAfter x)).advance
  else .next (s.raiseData (.loadRegs x))

end Sys2Proof.Machine
end

