-- ==== Sys2Proof/Machine/Skips.lean ====
section
/-! DEFINITION. Conditional skips (spec/42_skips.md R150 to R156). -/

namespace Sys2Proof.Machine

/-- SE Vx,byte (R151). -/
def execSeImm (x : Reg) (kk : Byte) (s : State) : Host.Outcome State Fault Refusal :=
  .next (s.skipIf (s.getV x == kk))

/-- SNE Vx,byte (R152). -/
def execSneImm (x : Reg) (kk : Byte) (s : State) : Host.Outcome State Fault Refusal :=
  .next (s.skipIf (s.getV x != kk))

/-- SE Vx,Vy (R153). -/
def execSeReg (x y : Reg) (s : State) : Host.Outcome State Fault Refusal :=
  .next (s.skipIf (s.getV x == s.getV y))

/-- SNE Vx,Vy (R154). -/
def execSneReg (x y : Reg) (s : State) : Host.Outcome State Fault Refusal :=
  .next (s.skipIf (s.getV x != s.getV y))

/-- KeyIndexOutOfRange, with the register's value as its detail (60_exceptions.md R247). -/
def State.raiseKey (s : State) (i : Instr) (value : Byte) : State := s.raiseBy i .keyIndexOutOfRange (.value value)

/-- SKP Vx (R155). -/
def execSkp (x : Reg) (s : State) : Host.Outcome State Fault Refusal :=
  match keyOf (s.getV x) with
  | some k => .next (s.skipIf s.keys[k.val])
  | none => .next (s.raiseKey (.skp x) (s.getV x))

/-- SKNP Vx (R156). -/
def execSknp (x : Reg) (s : State) : Host.Outcome State Fault Refusal :=
  match keyOf (s.getV x) with
  | some k => .next (s.skipIf (!s.keys[k.val]))
  | none => .next (s.raiseKey (.sknp x) (s.getV x))

end Sys2Proof.Machine
end

