-- ==== Sys2Proof/Machine/TimersInput.lean ====
section
/-! DEFINITION. Timer and key instructions, and the step of a blocked Fx0A (spec/45_timers_input.md R220 to R224). -/

namespace Sys2Proof.Machine

/-- LD Vx,DT (R220). -/
def execLdVxDT (x : Reg) (s : State) : Host.Outcome State Fault Refusal := .next (s.setV x s.dt).advance

/-- LD Vx,K (R221), from mode Ready. -/
def execLdVxK (x : Reg) (s : State) : Host.Outcome State Fault Refusal :=
  match selectKey s.params s.keys with
  | some k => .next (s.setV x (keyByte k)).advance
  | none => .next (s.setMode (.awaitKey x))

/-- A step in mode AwaitKey(x) (R222): the key test again, with no fetch. -/
def State.awaitStep (s : State) (x : Reg) : State :=
  match selectKey s.params s.keys with
  | some k => ((s.setV x (keyByte k)).setMode .ready).advance
  | none => s

/-- LD DT,Vx (R223). -/
def execLdDTVx (x : Reg) (s : State) : Host.Outcome State Fault Refusal := .next (s.setDt (s.getV x)).advance

/-- LD ST,Vx (R224). -/
def execLdSTVx (x : Reg) (s : State) : Host.Outcome State Fault Refusal := .next (s.setSt (s.getV x)).advance

end Sys2Proof.Machine
end

