-- ==== Sys2Proof/Machine/Fetch.lean ====
section
/-! DEFINITION. Instruction fetch (spec/20_memory.md R55), what a step is about to do in the order of its checks (60_exceptions.md R249,
R263), and placing a word where the next step fetches it. -/

namespace Sys2Proof.Machine

/-- The word at address a, big-endian (R54). -/
def State.wordAt (s : State) (a : Nat) : Word := wordOfBytes (s.readMem a) (s.readMem (a + 1))

/-- Both bytes of the instruction at PC exist: PC + 1 <= 0xFFF, exactly (R55). -/
def State.canFetch (s : State) : Bool := decide (s.pc.toNat + 1 ≤ 0xFFF)

/-- What a step is about to do. -/
inductive Action where
  /-- A fault is latched: nothing changes (R250). -/
  | hold
  /-- MODE is AwaitKey(x): repeat the key test (45_timers_input.md R222). -/
  | await (x : Reg)
  /-- Fetch or decode raises this fault (R242, R243). -/
  | raise (code : FaultCode) (word : Option Word)
  /-- The word decodes to this instruction. -/
  | run (i : Instr)
  deriving DecidableEq, Repr

/-- Fetch and decode (R55, 30_encoding.md R85). -/
def State.fetchDecode (s : State) : Action :=
  if s.canFetch then
    match decode (s.wordAt s.pc.toNat) with
    | some i => .run i
    | none => .raise .undefinedOpcode (some (s.wordAt s.pc.toNat))
  else .raise .fetchOutOfRange none

/-- The checks of a step in the order of R249. -/
def State.action (s : State) : Action :=
  match s.fault with
  | some _ => .hold
  | none =>
    match s.mode with
    | .awaitKey x => .await x
    | .ready => s.fetchDecode

/-- The state with a word placed where the next step fetches, and with all that the fetch needs: MODE Ready, no latched fault, and PC
within the fetchable range (PROG_BASE if it is not) (notes/assumptions/6.md). -/
def State.placeWord (s : State) (w : Word) : State :=
  { s with
    mem := Memory.writeBytes s.mem (if s.canFetch then s.pc.toNat else Config.progBase) [highByte w, lowByte w]
    pc := if s.canFetch then s.pc else BitVec.ofNat 16 Config.progBase
    mode := .ready
    fault := none }

end Sys2Proof.Machine
end

