-- ==== Sys2Proof/Machine/Step.lean ====
section
/-! DEFINITION. One Step of the CORE (spec/60_exceptions.md R263). -/

namespace Sys2Proof.Machine

/-- Step (R263). A fault, too, gives a next state: the one with the report latched (R248). -/
def step (s : State) : Host.Outcome State Fault Refusal :=
  match s.action with
  | .hold => .next s
  | .await x => .next (s.awaitStep x)
  | .raise code word => .next (s.raise code word .noDetail)
  | .run i => exec i s

/-- The state with the instruction word w, numbered as spec/opcode_table.json numbers it, where the next step fetches it. -/
def State.withFetchWord (s : State) (nbits w : Nat) : State := s.placeWord (BitVec.ofNat 16 (w % 2 ^ nbits))

end Sys2Proof.Machine
end

