-- ==== Sys2Proof/Machine/HostOps.lean ====
section
/-! DEFINITION. The host interface beside Step (spec/60_exceptions.md R257 to R267, 70_reset_and_hazards.md R280 to R282): Construct, Tick,
SetKey and Read, each atomic, and finite and infinite runs of them in any order (R266). -/

namespace Sys2Proof.Machine

/-- A timer one lower, clamped at 0 (R257, 10_state.md R31). -/
def countDown (b : Byte) : Byte := if b = 0 then 0 else b - 1

/-- Tick (R257): both timers. -/
def State.tick (s : State) : State := { s with dt := countDown s.dt, st := countDown s.st }

/-- SetKey(k, b) (R264). -/
def State.setKey (s : State) (k : Key) (b : Bool) : State := { s with keys := s.keys.set k.val b }

/-- The sound output (R260). -/
def State.soundActive (s : State) : Bool := decide (s.st.toNat > 0)

/-- What a Step returns to its caller (R263). -/
inductive StepOutcome where
  /-- An instruction completed. -/
  | stepped
  /-- An Fx0A waits for a key. -/
  | blocked
  /-- A fault was raised by this step or an earlier one. -/
  | faulted (r : FaultReport)
  deriving DecidableEq, Repr

/-- The outcome of a Step, read off the state after it: a latched report is returned by every Step (R248, R250), and otherwise MODE tells
Stepped from Blocked (R263). -/
def State.outcome (s : State) : StepOutcome :=
  match s.fault with
  | some r => .faulted r
  | none =>
    match s.mode with
    | .awaitKey _ => .blocked
    | .ready => .stepped

/-- The load-time condition of Construct (R282). -/
inductive LoadError where
  /-- OversizedImage: more than 3584 bytes; no machine exists. -/
  | oversizedImage
  deriving DecidableEq, Repr

/-- The code number of the load-time condition (60_exceptions.md R241). -/
def LoadError.number : LoadError → Nat
  | .oversizedImage => 7

/-- Memory after construction (R280): zero, then GLYPHS from 0x000, then the image from 0x200. -/
def constructMemory (image : List Byte) (glyphs : Vector Byte 80) : Memory :=
  Memory.writeBytes (Memory.writeBytes [] 0 glyphs.toList) Config.progBase image

/-- Construct(image, GLYPHS) (R280), under the step's parameters (00_scope.md R7). -/
def State.construct (image : List Byte) (glyphs : Vector Byte 80) (p : Params) : Except LoadError State :=
  if image.length > Config.progMax then .error .oversizedImage
  else .ok { State.reset with mem := constructMemory image glyphs, params := p }

/-- An operation of the host on a constructed machine (R262, R266). -/
inductive HostOp where
  | step
  | tick
  | setKey (k : Key) (b : Bool)
  | read
  deriving DecidableEq, Repr

/-- One operation (R262). A Read changes nothing (R265). -/
def State.apply (s : State) : HostOp → Host.Outcome State Fault Refusal
  | .step => Sys2Proof.Machine.step s
  | .tick => .next s.tick
  | .setKey k b => .next (s.setKey k b)
  | .read => .next s

/-- A finite run: any sequence of operations (R266). -/
def State.runOps : State → List HostOp → Host.Outcome State Fault Refusal
  | s, [] => .next s
  | s, op :: ops =>
    match s.apply op with
    | .next t => State.runOps t ops
    | .fault r => .fault r
    | .refused r => .refused r

/-- Which operation the host performs at each point of an infinite run (R266): any interleaving, in any proportion. A schedule is an
argument of a run, not state. -/
abbrev Schedule := Nat → HostOp

/-- The first n operations of an infinite run from s (R266). -/
def State.runAlong (s : State) (ops : Schedule) : Nat → Host.Outcome State Fault Refusal
  | 0 => .next s
  | n + 1 =>
    match s.runAlong ops n with
    | .next t => t.apply (ops n)
    | .fault r => .fault r
    | .refused r => .refused r

/-- The states of an infinite run (R266): `trace 0` is the first, and operation n leads from `trace n` to `trace (n + 1)`. -/
def State.IsRun (s : State) (ops : Schedule) (trace : Nat → State) : Prop :=
  trace 0 = s ∧ ∀ n, (trace n).apply (ops n) = .next (trace (n + 1))

/-- The fairness premise of R266: the host keeps performing the operation op. No rule of the machine; claims assume it. -/
def Schedule.KeepsCalling (ops : Schedule) (op : HostOp) : Prop := ∀ n, ∃ m, n ≤ m ∧ ops m = op

end Sys2Proof.Machine
end

