-- ==== Sys2Proof/Safety.lean ====
section
/-! DEFINITION. The vocabulary of the claims: what a step leaves unchanged, the invariant of the machine, and the pixels under a
sprite. -/

namespace Sys2Proof.Machine

/-- The pieces of state an operation may touch. -/
inductive Part where
  | reg (r : Reg)
  | index
  | pc
  | sp
  | stack
  | mem
  | disp
  | keys
  | dt
  | st
  | mode
  | fault
  | draws
  deriving DecidableEq, Repr

/-- The frame of an operation: from s to t every piece of state not among `touched` keeps its value, each general register and each byte
of memory for itself; the parameters always do. -/
def Keeps (s t : State) (touched : List Part) : Prop :=
  (∀ r, Part.reg r ∉ touched → t.getV r = s.getV r) ∧
  (Part.index ∉ touched → t.i = s.i) ∧
  (Part.pc ∉ touched → t.pc = s.pc) ∧
  (Part.sp ∉ touched → t.sp = s.sp) ∧
  (Part.stack ∉ touched → t.stack = s.stack) ∧
  (Part.mem ∉ touched → ∀ a, t.readMem a = s.readMem a) ∧
  (Part.disp ∉ touched → ∀ r c, t.pixel r c = s.pixel r c) ∧
  (Part.keys ∉ touched → t.keys = s.keys) ∧
  (Part.dt ∉ touched → t.dt = s.dt) ∧
  (Part.st ∉ touched → t.st = s.st) ∧
  (Part.mode ∉ touched → t.mode = s.mode) ∧
  (Part.fault ∉ touched → t.fault = s.fault) ∧
  (Part.draws ∉ touched → t.draws = s.draws) ∧
  t.params = s.params

/-- The state can run an instruction: no fault is latched and MODE is Ready (60_exceptions.md R249, R263). -/
abbrev State.Running (s : State) : Prop := s.fault = none ∧ s.mode = .ready

/-- The pixel (r, c) lies under a 1 bit of the n-row sprite at I, drawn at (V[x], V[y]) (40_display.md R111): byte `row` is on display row
(V[y] + row) mod 32, its bit 7 - col on display column (V[x] + col) mod 64. -/
def State.UnderSprite (s : State) (x y : Reg) (n : Nat) (r : Fin 32) (c : Fin 64) : Prop :=
  ∃ row col : Nat, row < n ∧ col < 8 ∧ (s.readMem (s.i.toNat + row)).getLsbD (7 - col) = true ∧
    r.val = ((s.getV y).toNat + row) % 32 ∧ c.val = ((s.getV x).toNat + col) % 64

/-- The invariant of the machine: what holds after construction and after every operation since. -/
structure State.Inv (s : State) : Prop where
  /-- The memory is in canonical form. -/
  memory : Memory.wf s.mem = true
  /-- I is in [0x000, 0x1000] (10_state.md R25). -/
  index : s.i.toNat ≤ 0x1000
  /-- The largest value any rule can write to PC is 0x10FE (10_state.md R28). -/
  counter : s.pc.toNat ≤ 0x10FE
  /-- The value a CALL pushes is at most 0x1000 (41_flow.md R133). -/
  returns : ∀ j : Fin 16, (s.stack[j.val]).toNat ≤ 0x1000
  /-- While the engine waits for a key no fault is latched, and PC holds the address of the Fx0A it waits in (10_state.md R35). -/
  waiting : ∀ x, s.mode = .awaitKey x → s.fault = none ∧ s.canFetch = true ∧ decode (s.wordAt s.pc.toNat) = some (.ldVxK x)

/-- The Fx instruction of a blocked engine can complete: some key is pressed (45_timers_input.md R222). -/
abbrev State.KeyDown (s : State) : Prop := ∃ k : Key, s.keys[k.val] = true

end Sys2Proof.Machine
end

