-- ==== Sys2Proof/Certificates/Slice0/Obligations.lean ====
section
/-! DEFINITION. The statements for the provers, from the numbered rules of spec/. Words are written out from the spec's encodings
(30_encoding.md R87), not through the model's encoder; what an instruction leaves unchanged is said by `Keeps`. A state update written
with `with` changes the named field alone. -/

open Sys2Proof Sys2Proof.Machine

/-! ### What the statements compare the machine with -/

/-- The word at PC as the fetch rule writes it, (MEM[PC] << 8) | MEM[PC + 1] (20_memory.md R55). -/
def Sys2Proof.Claims.fetchedWord (s : State) : Word :=
  BitVec.ofNat 16 ((s.readMem s.pc.toNat).toNat * 256 + (s.readMem (s.pc.toNat + 1)).toNat)

/-- The check of its own that an instruction fails, as the table of 60_exceptions.md R241 lists it. -/
def Sys2Proof.Claims.ownFault (s : State) : Instr → Option (FaultCode × FaultDetail)
  | .call _ => if s.sp.val = 16 then some (.stackOverflow, .noDetail) else none
  | .ret => if s.sp.val = 0 then some (.stackUnderflow, .noDetail) else none
  | .drw _ _ n =>
    if n.val > 0 ∧ s.i.toNat + n.val - 1 > 0xFFF then
      some (.dataOutOfRange, .address (BitVec.ofNat 16 (max s.i.toNat 0x1000))) else none
  | .ldB _ =>
    if s.i.toNat + 2 > 0xFFF then some (.dataOutOfRange, .address (BitVec.ofNat 16 (max s.i.toNat 0x1000))) else none
  | .storeRegs x =>
    if s.i.toNat + x.val > 0xFFF then some (.dataOutOfRange, .address (BitVec.ofNat 16 (max s.i.toNat 0x1000))) else none
  | .loadRegs x =>
    if s.i.toNat + x.val > 0xFFF then some (.dataOutOfRange, .address (BitVec.ofNat 16 (max s.i.toNat 0x1000))) else none
  | .skp x => if (s.getV x).toNat > 0xF then some (.keyIndexOutOfRange, .value (s.getV x)) else none
  | .sknp x => if (s.getV x).toNat > 0xF then some (.keyIndexOutOfRange, .value (s.getV x)) else none
  | _ => none

/-- The report a step from a running state raises, in the order of 60_exceptions.md R249: fetch, decode, the instruction's own check. -/
def Sys2Proof.Claims.expectedReport (s : State) : Option FaultReport :=
  if s.pc.toNat + 1 > 0xFFF then some ⟨.fetchOutOfRange, s.pc, none, .noDetail⟩
  else
    match decode (Claims.fetchedWord s) with
    | none => some ⟨.undefinedOpcode, s.pc, some (Claims.fetchedWord s), .noDetail⟩
    | some i =>
      match Claims.ownFault s i with
      | some (code, detail) => some ⟨code, s.pc, some (Claims.fetchedWord s), detail⟩
      | none => none

/-- The new PC of an instruction that raises no fault, by the table of 10_state.md R27. -/
def Sys2Proof.Claims.pcAfter (s : State) : Instr → Word
  | .seImm x kk => if s.getV x = kk then s.pc + 4 else s.pc + 2
  | .sneImm x kk => if s.getV x ≠ kk then s.pc + 4 else s.pc + 2
  | .seReg x y => if s.getV x = s.getV y then s.pc + 4 else s.pc + 2
  | .sneReg x y => if s.getV x ≠ s.getV y then s.pc + 4 else s.pc + 2
  | .skp x => if (s.keys.toList.getD (s.getV x).toNat false) = true then s.pc + 4 else s.pc + 2
  | .sknp x => if (s.keys.toList.getD (s.getV x).toNat false) = false then s.pc + 4 else s.pc + 2
  | .jp nnn => BitVec.ofNat 16 nnn.toNat
  | .call nnn => BitVec.ofNat 16 nnn.toNat
  | .jpV0 nnn => BitVec.ofNat 16 (nnn.toNat + (s.getV 0).toNat)
  | .ret => s.stack.toList.getD (s.sp.val - 1) 0
  | .ldVxK _ => if true ∈ s.keys.toList then s.pc + 2 else s.pc
  | _ => s.pc + 2

/-- The instruction writes VF as a flag, or names VF as a register it writes (10_state.md R24). -/
def Sys2Proof.Claims.writesVF : Instr → Bool
  | .addReg _ _ => true
  | .subReg _ _ => true
  | .shr _ _ => true
  | .subn _ _ => true
  | .shl _ _ => true
  | .drw _ _ _ => true
  | .addI _ => true
  | .ldImm x _ => x == 15
  | .addImm x _ => x == 15
  | .ldReg x _ => x == 15
  | .orReg x _ => x == 15
  | .andReg x _ => x == 15
  | .xorReg x _ => x == 15
  | .rnd x _ => x == 15
  | .ldVxDT x => x == 15
  | .ldVxK x => x == 15
  | .loadRegs x => x == 15
  | _ => false

/-! ### Display (40_display.md) -/

/-- R110: 00E0 clears every pixel and changes nothing else but PC. -/
def Obligations.ClsClearsTheDisplay : Prop :=
  ∀ s : State, decode 0x00E0#16 = some .cls ∧
    ∃ t, exec .cls s = .next t ∧ (∀ r c, t.pixel r c = false) ∧ t.pc = s.pc + 2 ∧ Keeps s t [.disp, .pc]

/-- R111, R112: Dxyn inverts exactly the pixels under the sprite's 1 bits, with wrap on both axes, and VF tells whether one of them was
set; a sprite that leaves memory raises DataOutOfRange and draws nothing (the fault is the spec's own decision D4, 92_eei_decisions.md). -/
def Obligations.DrwXorsTheSpriteAndReportsCollision : Prop :=
  ∀ (x y : Reg) (n : Fin 16) (s : State),
    decode (BitVec.ofNat 16 (0xD000 + x.val * 0x100 + y.val * 0x10 + n.val)) = some (.drw x y n) ∧
    ((n.val = 0 ∨ s.i.toNat + n.val - 1 ≤ 0xFFF) →
      ∃ t, exec (.drw x y n) s = .next t ∧
        (∀ r c, s.UnderSprite x y n.val r c → t.pixel r c = !s.pixel r c) ∧
        (∀ r c, ¬ s.UnderSprite x y n.val r c → t.pixel r c = s.pixel r c) ∧
        ((∃ r c, s.UnderSprite x y n.val r c ∧ s.pixel r c = true) → t.getV 15 = 1) ∧
        ((¬ ∃ r c, s.UnderSprite x y n.val r c ∧ s.pixel r c = true) → t.getV 15 = 0) ∧
        t.pc = s.pc + 2 ∧ Keeps s t [.disp, .reg 15, .pc]) ∧
    ((n.val > 0 ∧ s.i.toNat + n.val - 1 > 0xFFF) →
      ∃ t, exec (.drw x y n) s = .next t ∧
        t.fault = some ⟨.dataOutOfRange, s.pc, some (BitVec.ofNat 16 (0xD000 + x.val * 0x100 + y.val * 0x10 + n.val)),
          .address (BitVec.ofNat 16 (max s.i.toNat 0x1000))⟩ ∧ Keeps s t [.fault])

/-- R113 (a), (b): drawing a sprite again at the same place, with I, the sprite's bytes, V[x] and V[y] the same, restores the display, and
the second VF is 1 exactly if the first draw turned a pixel on. -/
def Obligations.DrawingTwiceRestoresTheDisplay : Prop :=
  ∀ (x y : Reg) (n : Fin 16) (s t t' u : State),
    (n.val = 0 ∨ s.i.toNat + n.val - 1 ≤ 0xFFF) →
    exec (.drw x y n) s = .next t →
    (t'.i = s.i ∧ (∀ row : Nat, row < n.val → t'.readMem (s.i.toNat + row) = s.readMem (s.i.toNat + row)) ∧ t'.getV x = s.getV x ∧
      t'.getV y = s.getV y ∧ t'.disp = t.disp) →
    exec (.drw x y n) t' = .next u →
    (∀ r c, u.pixel r c = s.pixel r c) ∧
      (u.getV 15 = 1 ↔ ∃ r c, s.pixel r c = false ∧ t.pixel r c = true) ∧ (u.getV 15 = 0 ∨ u.getV 15 = 1)

/-! ### Control transfer (41_flow.md) -/

/-- R131: 00EE pops the return address into PC, and raises StackUnderflow on an empty stack. -/
def Obligations.RetPopsTheReturnAddress : Prop :=
  ∀ s : State, decode 0x00EE#16 = some .ret ∧
    (∀ k : Fin 16, s.sp.val = k.val + 1 →
      ∃ t, exec .ret s = .next t ∧ t.sp.val = k.val ∧ t.pc = s.stack[k.val] ∧ Keeps s t [.sp, .pc]) ∧
    (s.sp.val = 0 →
      ∃ t, exec .ret s = .next t ∧ t.fault = some ⟨.stackUnderflow, s.pc, some 0x00EE#16, .noDetail⟩ ∧ Keeps s t [.fault])

/-- R132: 1nnn sets PC to nnn and changes nothing else. -/
def Obligations.JpSetsPc : Prop :=
  ∀ (nnn : BitVec 12) (s : State), decode (BitVec.ofNat 16 (0x1000 + nnn.toNat)) = some (.jp nnn) ∧
    ∃ t, exec (.jp nnn) s = .next t ∧ t.pc.toNat = nnn.toNat ∧ Keeps s t [.pc]

/-- R133: 2nnn pushes PC + 2 and sets PC to nnn, and raises StackOverflow on a full stack. -/
def Obligations.CallPushesTheReturnAddress : Prop :=
  ∀ (nnn : BitVec 12) (s : State), decode (BitVec.ofNat 16 (0x2000 + nnn.toNat)) = some (.call nnn) ∧
    (∀ k : Fin 16, s.sp.val = k.val →
      ∃ t, exec (.call nnn) s = .next t ∧ t.sp.val = k.val + 1 ∧ t.stack[k.val] = s.pc + 2 ∧
        (∀ j : Fin 16, j ≠ k → t.stack[j.val] = s.stack[j.val]) ∧ t.pc.toNat = nnn.toNat ∧ Keeps s t [.sp, .stack, .pc]) ∧
    (s.sp.val = 16 →
      ∃ t, exec (.call nnn) s = .next t ∧
        t.fault = some ⟨.stackOverflow, s.pc, some (BitVec.ofNat 16 (0x2000 + nnn.toNat)), .noDetail⟩ ∧ Keeps s t [.fault])

/-- R134: Bnnn sets PC to the exact sum of nnn and V0; that the sum is not masked is the spec's own decision D9 (92_eei_decisions.md). -/
def Obligations.JpV0AddsV0 : Prop :=
  ∀ (nnn : BitVec 12) (s : State), decode (BitVec.ofNat 16 (0xB000 + nnn.toNat)) = some (.jpV0 nnn) ∧
    ∃ t, exec (.jpV0 nnn) s = .next t ∧ t.pc.toNat = nnn.toNat + (s.getV 0).toNat ∧ Keeps s t [.pc]

/-- R135: a RET on the stack a CALL left returns to the address after the CALL, with the depth of before it. -/
def Obligations.CallThenRetReturnsAfterTheCall : Prop :=
  ∀ (nnn : BitVec 12) (s t t' u : State), s.sp.val < 16 → exec (.call nnn) s = .next t →
    (t'.sp = t.sp ∧ t'.stack = t.stack) → exec .ret t' = .next u →
    u.pc = s.pc + 2 ∧ u.sp = s.sp ∧ u.fault = t'.fault

/-! ### Skips (42_skips.md) -/

/-- R151, R152: 3xkk and 4xkk skip on Vx = kk and on Vx ≠ kk, and change PC alone. -/
def Obligations.SkipsCompareWithTheImmediate : Prop :=
  ∀ (x : Reg) (kk : Byte) (s : State),
    decode (BitVec.ofNat 16 (0x3000 + x.val * 0x100 + kk.toNat)) = some (.seImm x kk) ∧
    decode (BitVec.ofNat 16 (0x4000 + x.val * 0x100 + kk.toNat)) = some (.sneImm x kk) ∧
    (∃ t, exec (.seImm x kk) s = .next t ∧ t.pc = (if s.getV x = kk then s.pc + 4 else s.pc + 2) ∧ Keeps s t [.pc]) ∧
    (∃ t, exec (.sneImm x kk) s = .next t ∧ t.pc = (if s.getV x = kk then s.pc + 2 else s.pc + 4) ∧ Keeps s t [.pc])

/-- R153, R154: 5xy0 and 9xy0 skip on Vx = Vy and on Vx ≠ Vy, and change PC alone; 5xyN and 9xyN with N ≠ 0 are illegal. -/
def Obligations.SkipsCompareRegisters : Prop :=
  ∀ (x y : Reg) (s : State),
    decode (BitVec.ofNat 16 (0x5000 + x.val * 0x100 + y.val * 0x10)) = some (.seReg x y) ∧
    decode (BitVec.ofNat 16 (0x9000 + x.val * 0x100 + y.val * 0x10)) = some (.sneReg x y) ∧
    (∀ n : Fin 16, n ≠ 0 → decode (BitVec.ofNat 16 (0x5000 + x.val * 0x100 + y.val * 0x10 + n.val)) = none ∧
      decode (BitVec.ofNat 16 (0x9000 + x.val * 0x100 + y.val * 0x10 + n.val)) = none) ∧
    (∃ t, exec (.seReg x y) s = .next t ∧ t.pc = (if s.getV x = s.getV y then s.pc + 4 else s.pc + 2) ∧ Keeps s t [.pc]) ∧
    (∃ t, exec (.sneReg x y) s = .next t ∧ t.pc = (if s.getV x = s.getV y then s.pc + 2 else s.pc + 4) ∧ Keeps s t [.pc])

/-- R155, R156: Ex9E and ExA1 skip on the key numbered Vx pressed and released, and raise KeyIndexOutOfRange when Vx > 0xF
(the fault is the spec's own decision D5, 92_eei_decisions.md). -/
def Obligations.SkipsTestTheKey : Prop :=
  ∀ (x : Reg) (s : State),
    decode (BitVec.ofNat 16 (0xE09E + x.val * 0x100)) = some (.skp x) ∧
    decode (BitVec.ofNat 16 (0xE0A1 + x.val * 0x100)) = some (.sknp x) ∧
    (∀ k : Key, (s.getV x).toNat = k.val →
      (∃ t, exec (.skp x) s = .next t ∧ t.pc = (if s.keys[k.val] = true then s.pc + 4 else s.pc + 2) ∧ Keeps s t [.pc]) ∧
      (∃ t, exec (.sknp x) s = .next t ∧ t.pc = (if s.keys[k.val] = false then s.pc + 4 else s.pc + 2) ∧ Keeps s t [.pc])) ∧
    ((s.getV x).toNat > 0xF →
      (∃ t, exec (.skp x) s = .next t ∧ Keeps s t [.fault] ∧
        t.fault = some ⟨.keyIndexOutOfRange, s.pc, some (BitVec.ofNat 16 (0xE09E + x.val * 0x100)), .value (s.getV x)⟩) ∧
      (∃ t, exec (.sknp x) s = .next t ∧ Keeps s t [.fault] ∧
        t.fault = some ⟨.keyIndexOutOfRange, s.pc, some (BitVec.ofNat 16 (0xE0A1 + x.val * 0x100)), .value (s.getV x)⟩))

/-! ### Register arithmetic and logic (43_alu.md) -/

/-- R171, R172: 6xkk loads kk, 7xkk adds it modulo 256 and touches no flag. -/
def Obligations.ImmediateLoadAndAdd : Prop :=
  ∀ (x : Reg) (kk : Byte) (s : State),
    decode (BitVec.ofNat 16 (0x6000 + x.val * 0x100 + kk.toNat)) = some (.ldImm x kk) ∧
    decode (BitVec.ofNat 16 (0x7000 + x.val * 0x100 + kk.toNat)) = some (.addImm x kk) ∧
    (∃ t, exec (.ldImm x kk) s = .next t ∧ t.getV x = kk ∧ t.pc = s.pc + 2 ∧ Keeps s t [.reg x, .pc]) ∧
    (∃ t, exec (.addImm x kk) s = .next t ∧ (t.getV x).toNat = ((s.getV x).toNat + kk.toNat) % 256 ∧ t.pc = s.pc + 2 ∧
      Keeps s t [.reg x, .pc])

/-- R173 to R176: 8xy0 copies Vy, 8xy1 to 8xy3 combine the two registers bit by bit, and none writes a flag. -/
def Obligations.CopyAndBitwiseLogic : Prop :=
  ∀ (x y : Reg) (s : State),
    decode (BitVec.ofNat 16 (0x8000 + x.val * 0x100 + y.val * 0x10)) = some (.ldReg x y) ∧
    decode (BitVec.ofNat 16 (0x8001 + x.val * 0x100 + y.val * 0x10)) = some (.orReg x y) ∧
    decode (BitVec.ofNat 16 (0x8002 + x.val * 0x100 + y.val * 0x10)) = some (.andReg x y) ∧
    decode (BitVec.ofNat 16 (0x8003 + x.val * 0x100 + y.val * 0x10)) = some (.xorReg x y) ∧
    (∃ t, exec (.ldReg x y) s = .next t ∧ t.getV x = s.getV y ∧ t.pc = s.pc + 2 ∧ Keeps s t [.reg x, .pc]) ∧
    (∃ t, exec (.orReg x y) s = .next t ∧
      (∀ b : Nat, (t.getV x).getLsbD b = ((s.getV x).getLsbD b || (s.getV y).getLsbD b)) ∧ t.pc = s.pc + 2 ∧ Keeps s t [.reg x, .pc]) ∧
    (∃ t, exec (.andReg x y) s = .next t ∧
      (∀ b : Nat, (t.getV x).getLsbD b = ((s.getV x).getLsbD b && (s.getV y).getLsbD b)) ∧ t.pc = s.pc + 2 ∧ Keeps s t [.reg x, .pc]) ∧
    (∃ t, exec (.xorReg x y) s = .next t ∧
      (∀ b : Nat, (t.getV x).getLsbD b = ((s.getV x).getLsbD b != (s.getV y).getLsbD b)) ∧ t.pc = s.pc + 2 ∧ Keeps s t [.reg x, .pc])

/-- R180: 8xy4 adds modulo 256, VF is the carry, written last. -/
def Obligations.AddSetsTheCarry : Prop :=
  ∀ (x y : Reg) (s : State),
    decode (BitVec.ofNat 16 (0x8004 + x.val * 0x100 + y.val * 0x10)) = some (.addReg x y) ∧
    ∃ t, exec (.addReg x y) s = .next t ∧
      (x ≠ 15 → (t.getV x).toNat = ((s.getV x).toNat + (s.getV y).toNat) % 256) ∧
      (t.getV 15).toNat = (if (s.getV x).toNat + (s.getV y).toNat > 255 then 1 else 0) ∧
      t.pc = s.pc + 2 ∧ Keeps s t [.reg x, .reg 15, .pc]

/-- R181, R183: 8xy5 and 8xy7 subtract modulo 256 in the two directions, VF is 1 when no borrow occurs, written last. -/
def Obligations.SubtractionsSetNoBorrow : Prop :=
  ∀ (x y : Reg) (s : State),
    decode (BitVec.ofNat 16 (0x8005 + x.val * 0x100 + y.val * 0x10)) = some (.subReg x y) ∧
    decode (BitVec.ofNat 16 (0x8007 + x.val * 0x100 + y.val * 0x10)) = some (.subn x y) ∧
    (∃ t, exec (.subReg x y) s = .next t ∧
      (x ≠ 15 → ((t.getV x).toNat : Int) = (((s.getV x).toNat : Int) - (s.getV y).toNat) % 256) ∧
      (t.getV 15).toNat = (if (s.getV x).toNat ≥ (s.getV y).toNat then 1 else 0) ∧
      t.pc = s.pc + 2 ∧ Keeps s t [.reg x, .reg 15, .pc]) ∧
    (∃ t, exec (.subn x y) s = .next t ∧
      (x ≠ 15 → ((t.getV x).toNat : Int) = (((s.getV y).toNat : Int) - (s.getV x).toNat) % 256) ∧
      (t.getV 15).toNat = (if (s.getV y).toNat ≥ (s.getV x).toNat then 1 else 0) ∧
      t.pc = s.pc + 2 ∧ Keeps s t [.reg x, .reg 15, .pc])

/-- R182, R184: 8xy6 and 8xyE shift Vx alone by one, whatever y is; VF is the bit shifted out, written last. -/
def Obligations.ShiftsMoveTheDroppedBitToVF : Prop :=
  ∀ (x y : Reg) (s : State),
    decode (BitVec.ofNat 16 (0x8006 + x.val * 0x100 + y.val * 0x10)) = some (.shr x y) ∧
    decode (BitVec.ofNat 16 (0x800E + x.val * 0x100 + y.val * 0x10)) = some (.shl x y) ∧
    (∃ t, exec (.shr x y) s = .next t ∧
      (x ≠ 15 → (t.getV x).toNat = (s.getV x).toNat / 2) ∧ (t.getV 15).toNat = (s.getV x).toNat % 2 ∧
      t.pc = s.pc + 2 ∧ Keeps s t [.reg x, .reg 15, .pc]) ∧
    (∃ t, exec (.shl x y) s = .next t ∧
      (x ≠ 15 → (t.getV x).toNat = (s.getV x).toNat * 2 % 256) ∧ (t.getV 15).toNat = (s.getV x).toNat / 128 ∧
      t.pc = s.pc + 2 ∧ Keeps s t [.reg x, .reg 15, .pc])

/-- R185: Cxkk writes the next draw masked by kk. The draw is a free value (the spec's own decision D11), so this holds for every value of
it; that the draws are numbered by a counter of State is the model's choice (notes/assumptions/4.md). -/
def Obligations.RndMasksAFreeDraw : Prop :=
  ∀ (x : Reg) (kk : Byte) (s : State),
    decode (BitVec.ofNat 16 (0xC000 + x.val * 0x100 + kk.toNat)) = some (.rnd x kk) ∧
    ∃ t, exec (.rnd x kk) s = .next t ∧
      (∀ b : Nat, (t.getV x).getLsbD b = ((Config.draw8 s.draws).getLsbD b && kk.getLsbD b)) ∧
      t.draws = s.draws + 1 ∧ t.pc = s.pc + 2 ∧ Keeps s t [.reg x, .draws, .pc]

/-! ### Index register and memory (44_index_memory.md) -/

/-- R200: Annn loads I with nnn. -/
def Obligations.LdILoadsTheAddress : Prop :=
  ∀ (nnn : BitVec 12) (s : State), decode (BitVec.ofNat 16 (0xA000 + nnn.toNat)) = some (.ldI nnn) ∧
    ∃ t, exec (.ldI nnn) s = .next t ∧ t.i.toNat = nnn.toNat ∧ t.pc = s.pc + 2 ∧ Keeps s t [.index, .pc]

/-- R204: Fx29 loads I with five times Vx. That Vx is not masked to four bits is the spec's own decision D10 (92_eei_decisions.md). -/
def Obligations.LdFPointsAtTheGlyph : Prop :=
  ∀ (x : Reg) (s : State), decode (BitVec.ofNat 16 (0xF029 + x.val * 0x100)) = some (.ldF x) ∧
    ∃ t, exec (.ldF x) s = .next t ∧ t.i.toNat = (s.getV x).toNat * 5 ∧ t.pc = s.pc + 2 ∧ Keeps s t [.index, .pc]

/-- R202: Fx1E saturates I at 0xFFF with VF = 1, else writes the exact sum and VF as the parameter FX1E_VF_IN_RANGE says (the
spec's own decision D8). Where the parameter and the draw counter stand in State is the model's choice (notes/assumptions/2.md, 4.md). -/
def Obligations.AddToIndexSaturates : Prop :=
  ∀ (x : Reg) (s : State),
    decode (BitVec.ofNat 16 (0xF01E + x.val * 0x100)) = some (.addI x) ∧
    (s.i.toNat + (s.getV x).toNat > 0xFFF →
      ∃ t, exec (.addI x) s = .next t ∧ t.i.toNat = 0xFFF ∧ t.getV 15 = 1 ∧ t.pc = s.pc + 2 ∧
        Keeps s t [.index, .reg 15, .pc]) ∧
    (s.i.toNat + (s.getV x).toNat ≤ 0xFFF →
      ∃ t, exec (.addI x) s = .next t ∧ t.i.toNat = s.i.toNat + (s.getV x).toNat ∧
        (s.params.fx1eVf = .zero → t.getV 15 = 0 ∧ t.draws = s.draws) ∧
        (s.params.fx1eVf = .keep → t.getV 15 = s.getV 15 ∧ t.draws = s.draws) ∧
        (s.params.fx1eVf = .draw → t.getV 15 = Config.draw8 s.draws ∧ t.draws = s.draws + 1) ∧
        t.pc = s.pc + 2 ∧ Keeps s t [.index, .reg 15, .draws, .pc])

/-- R206: Fx33 stores the hundreds, tens and units of Vx at I, I + 1, I + 2, and raises DataOutOfRange with nothing written when
I + 2 > 0xFFF (the spec's own decision D4, 92_eei_decisions.md). -/
def Obligations.LdBStoresTheDecimalDigits : Prop :=
  ∀ (x : Reg) (s : State),
    decode (BitVec.ofNat 16 (0xF033 + x.val * 0x100)) = some (.ldB x) ∧
    (s.i.toNat + 2 ≤ 0xFFF →
      ∃ t, exec (.ldB x) s = .next t ∧
        (t.readMem s.i.toNat).toNat = (s.getV x).toNat / 100 ∧
        (t.readMem (s.i.toNat + 1)).toNat = (s.getV x).toNat / 10 % 10 ∧
        (t.readMem (s.i.toNat + 2)).toNat = (s.getV x).toNat % 10 ∧
        (∀ a, a < s.i.toNat ∨ s.i.toNat + 2 < a → t.readMem a = s.readMem a) ∧
        t.pc = s.pc + 2 ∧ Keeps s t [.mem, .pc]) ∧
    (s.i.toNat + 2 > 0xFFF →
      ∃ t, exec (.ldB x) s = .next t ∧ Keeps s t [.fault] ∧
        t.fault = some ⟨.dataOutOfRange, s.pc, some (BitVec.ofNat 16 (0xF033 + x.val * 0x100)),
          .address (BitVec.ofNat 16 (max s.i.toNat 0x1000))⟩)

/-- R208: Fx55 stores V0..Vx at I .. I + x and then adds x + 1 to I, all or nothing (the fault and the unmasked I are the spec's own
decisions D4 and D19, 92_eei_decisions.md). -/
def Obligations.StoreRegsWritesV0ToVx : Prop :=
  ∀ (x : Reg) (s : State),
    decode (BitVec.ofNat 16 (0xF055 + x.val * 0x100)) = some (.storeRegs x) ∧
    (s.i.toNat + x.val ≤ 0xFFF →
      ∃ t, exec (.storeRegs x) s = .next t ∧
        (∀ j : Reg, j ≤ x → t.readMem (s.i.toNat + j.val) = s.getV j) ∧
        (∀ a, a < s.i.toNat ∨ s.i.toNat + x.val < a → t.readMem a = s.readMem a) ∧
        t.i.toNat = s.i.toNat + x.val + 1 ∧ t.pc = s.pc + 2 ∧ Keeps s t [.mem, .index, .pc]) ∧
    (s.i.toNat + x.val > 0xFFF →
      ∃ t, exec (.storeRegs x) s = .next t ∧ Keeps s t [.fault] ∧
        t.fault = some ⟨.dataOutOfRange, s.pc, some (BitVec.ofNat 16 (0xF055 + x.val * 0x100)),
          .address (BitVec.ofNat 16 (max s.i.toNat 0x1000))⟩)

/-- R210: Fx65 loads V0..Vx from I .. I + x and then adds x + 1 to I, all or nothing (the fault and the unmasked I are the spec's own
decisions D4 and D19, 92_eei_decisions.md). -/
def Obligations.LoadRegsReadsV0ToVx : Prop :=
  ∀ (x : Reg) (s : State),
    decode (BitVec.ofNat 16 (0xF065 + x.val * 0x100)) = some (.loadRegs x) ∧
    (s.i.toNat + x.val ≤ 0xFFF →
      ∃ t, exec (.loadRegs x) s = .next t ∧
        (∀ j : Reg, j ≤ x → t.getV j = s.readMem (s.i.toNat + j.val)) ∧
        t.i.toNat = s.i.toNat + x.val + 1 ∧ t.pc = s.pc + 2 ∧
        Keeps s t (.index :: .pc :: ((List.finRange 16).filter (fun j => decide (j ≤ x))).map Part.reg)) ∧
    (s.i.toNat + x.val > 0xFFF →
      ∃ t, exec (.loadRegs x) s = .next t ∧ Keeps s t [.fault] ∧
        t.fault = some ⟨.dataOutOfRange, s.pc, some (BitVec.ofNat 16 (0xF065 + x.val * 0x100)),
          .address (BitVec.ofNat 16 (max s.i.toNat 0x1000))⟩)

/-- R211: with I set back in between, a load of V0..Vx from where a store put them gives the stored values, whatever the registers held. -/
def Obligations.StoreThenLoadGivesTheRegistersBack : Prop :=
  ∀ (x : Reg) (s t t' u : State), s.i.toNat + x.val ≤ 0xFFF → exec (.storeRegs x) s = .next t →
    (t'.i = s.i ∧ t'.mem = t.mem) → exec (.loadRegs x) t' = .next u →
    (∀ j : Reg, j ≤ x → u.getV j = s.getV j) ∧ t.i.toNat = s.i.toNat + x.val + 1 ∧ u.i = t.i

/-! ### Timers and keys (45_timers_input.md) -/

/-- R220, R223, R224: Fx07 reads DT, Fx15 writes DT, Fx18 writes ST. -/
def Obligations.TimerInstructionsMoveTheTimers : Prop :=
  ∀ (x : Reg) (s : State),
    decode (BitVec.ofNat 16 (0xF007 + x.val * 0x100)) = some (.ldVxDT x) ∧
    decode (BitVec.ofNat 16 (0xF015 + x.val * 0x100)) = some (.ldDTVx x) ∧
    decode (BitVec.ofNat 16 (0xF018 + x.val * 0x100)) = some (.ldSTVx x) ∧
    (∃ t, exec (.ldVxDT x) s = .next t ∧ t.getV x = s.dt ∧ t.pc = s.pc + 2 ∧ Keeps s t [.reg x, .pc]) ∧
    (∃ t, exec (.ldDTVx x) s = .next t ∧ t.dt = s.getV x ∧ t.pc = s.pc + 2 ∧ Keeps s t [.dt, .pc]) ∧
    (∃ t, exec (.ldSTVx x) s = .next t ∧ t.st = s.getV x ∧ t.pc = s.pc + 2 ∧ Keeps s t [.st, .pc])

/-- R221: with a key down Fx0A stores the number of a pressed key, the one KEY_SELECT picks, and completes; with none it sets
MODE to AwaitKey(x) and nothing else (the spec's own decisions D6, D7 and D20). That KEY_SELECT is a
table of State is the model's choice (notes/assumptions/3.md). -/
def Obligations.KeyWaitTakesAKeyOrBlocks : Prop :=
  ∀ (x : Reg) (s : State),
    decode (BitVec.ofNat 16 (0xF00A + x.val * 0x100)) = some (.ldVxK x) ∧
    (s.KeyDown →
      ∃ (t : State) (k : Key), exec (.ldVxK x) s = .next t ∧ s.keys[k.val] = true ∧ selectKey s.params s.keys = some k ∧
        (s.params.keySelect = [] → ∀ j : Key, j < k → s.keys[j.val] = false) ∧
        (t.getV x).toNat = k.val ∧ t.pc = s.pc + 2 ∧ Keeps s t [.reg x, .pc]) ∧
    (¬ s.KeyDown → ∃ t, exec (.ldVxK x) s = .next t ∧ t.mode = .awaitKey x ∧ Keeps s t [.mode])

/-- R222: a step in mode AwaitKey(x) completes the Fx0A when a key is down, and otherwise changes nothing and returns Blocked
(the spec's own decisions D20 and D23; which key is as in `KeyWaitTakesAKeyOrBlocks`). -/
def Obligations.WaitingStepCompletesOrStaysBlocked : Prop :=
  ∀ (x : Reg) (s : State), s.fault = none → s.mode = .awaitKey x →
    (s.KeyDown →
      ∃ (t : State) (k : Key), step s = .next t ∧ s.keys[k.val] = true ∧ selectKey s.params s.keys = some k ∧
        (t.getV x).toNat = k.val ∧ t.mode = .ready ∧ t.outcome = .stepped ∧ t.pc = s.pc + 2 ∧ Keeps s t [.reg x, .mode, .pc]) ∧
    (¬ s.KeyDown → step s = .next s ∧ s.outcome = .blocked)

/-- R222: a step in mode AwaitKey gives the same result as fetching and executing the Fx0A at PC again from mode Ready. -/
def Obligations.WaitingStepEqualsReexecution : Prop :=
  ∀ (x : Reg) (s : State), s.Inv → s.mode = .awaitKey x → step s = step { s with mode := .ready }

/-- R221, 00_scope.md R7: every KEY_SELECT function is the selection of some parameter record, so statements over all states hold for every
KEY_SELECT; every selection is of a pressed key. The table is the model's choice (notes/assumptions/3.md). -/
def Obligations.EveryKeySelectIsRepresented : Prop :=
  (∀ f : KeyState → Key, (∀ P : KeyState, (∃ k : Key, P[k.val] = true) → P[(f P).val] = true) →
    ∃ p : Params, ∀ P : KeyState, (∃ k : Key, P[k.val] = true) → selectKey p P = some (f P)) ∧
  (∀ (p : Params) (P : KeyState) (k : Key), selectKey p P = some k → P[k.val] = true)

/-! ### Step and faults (20_memory.md R55, 60_exceptions.md) -/

/-- R55, R263: in a running state whose PC can be fetched from, a step is `exec` of the instruction the word at PC decodes to, with nothing
added around it. -/
def Obligations.StepRunsTheDecodedInstruction : Prop :=
  ∀ (i : Instr) (s : State), s.Running → s.pc.toNat + 1 ≤ 0xFFF → decode (Claims.fetchedWord s) = some i → step s = exec i s

/-- R242: a fetch with PC + 1 > 0xFFF raises FetchOutOfRange and changes nothing else. -/
def Obligations.FetchBeyondMemoryFaults : Prop :=
  ∀ s : State, s.Running → s.pc.toNat + 1 > 0xFFF →
    ∃ t, step s = .next t ∧ t.fault = some ⟨.fetchOutOfRange, s.pc, none, .noDetail⟩ ∧ Keeps s t [.fault]

/-- R243: every word that matches no row of the opcode map raises UndefinedOpcode, the only fatal fault, and changes nothing else. -/
def Obligations.IllegalWordsRaiseUndefinedOpcode : Prop :=
  (∀ s : State, s.Running → s.pc.toNat + 1 ≤ 0xFFF →
    (∀ row ∈ opcodeMap, Claims.fetchedWord s &&& row.mask ≠ row.pattern) →
    ∃ t, step s = .next t ∧ t.fault = some ⟨.undefinedOpcode, s.pc, some (Claims.fetchedWord s), .noDetail⟩ ∧ Keeps s t [.fault]) ∧
  (∀ c : FaultCode, c.fatal = true ↔ c = .undefinedOpcode)

/-- R241, R249: a step from a running state latches exactly the report of the first check it fails, and none if it fails none; the
codes have the table's numbers (the numbers, the order, codes 5 and 6 are the spec's own decisions D2, D21, D4, D5). -/
def Obligations.StepReportsTheFirstFailedCheck : Prop :=
  (∀ s : State, s.Running → ∃ t, step s = .next t ∧ t.fault = Claims.expectedReport s) ∧
  (∀ c : FaultCode, (c.number, c.name, c.fatal) =
    match c with
    | .fetchOutOfRange => (1, "FetchOutOfRange", false)
    | .undefinedOpcode => (2, "UndefinedOpcode", true)
    | .stackOverflow => (3, "StackOverflow", false)
    | .stackUnderflow => (4, "StackUnderflow", false)
    | .dataOutOfRange => (5, "DataOutOfRange", false)
    | .keyIndexOutOfRange => (6, "KeyIndexOutOfRange", false))

/-- R248: a step that raises a fault leaves every component but FAULT as it was before the step, so PC is the faulting instruction's
address, and returns Faulted(report). -/
def Obligations.FaultEntryIsPrecise : Prop :=
  ∀ (s t : State) (r : FaultReport), s.fault = none → step s = .next t → t.fault = some r →
    { t with fault := none } = s ∧ r.pc = s.pc ∧ t.outcome = .faulted r

/-- R250, R251: with a fault latched a step changes nothing and returns the same report, and no sequence of host operations unlatches it
or changes more than KEY, DT and ST (the latch is the spec's own decision D3). -/
def Obligations.LatchedFaultStaysThroughEveryRun : Prop :=
  ∀ (ops : List HostOp) (s : State) (r : FaultReport), s.fault = some r →
    step s = .next s ∧ s.outcome = .faulted r ∧
    ∃ t, s.runOps ops = .next t ∧ t.fault = some r ∧ t.outcome = .faulted r ∧ Keeps s t [.keys, .dt, .st]

/-- R250: the latch loses no behaviour. Whatever the host does after a fault, executing the faulting instruction again would raise the same
fault. -/
def Obligations.ReexecutionRaisesTheSameFault : Prop :=
  ∀ (ops : List HostOp) (s t u : State) (r : FaultReport), s.Running → step s = .next t → t.fault = some r →
    t.runOps ops = .next u → step { u with fault := none } = .next u

/-- The CORE never stops by itself (R266, R267: the spec's own decision D15). Every step, and every finite run of host operations, answers
a next state. This holds because a fault of the spec is a next state with FAULT latched, which is the model's choice
(notes/assumptions/5.md). -/
def Obligations.EveryRunAnswersAState : Prop :=
  ∀ (s : State) (ops : List HostOp), (∃ t, step s = .next t) ∧ ∃ t, s.runOps ops = .next t

/-! ### Rules of the whole machine -/

/-- R27: the new PC of every instruction, by the table's classes; a fault leaves PC. -/
def Obligations.PcFollowsTheClassTable : Prop :=
  ∀ (i : Instr) (s t : State), s.fault = none → exec i s = .next t →
    (t.fault = none → t.pc = Claims.pcAfter s i) ∧ (t.fault ≠ none → t.pc = s.pc)

/-- R24: an instruction that neither writes VF as a flag nor names it as a register it writes leaves VF alone. -/
def Obligations.OnlyTheListedInstructionsWriteVF : Prop :=
  ∀ (i : Instr) (s t : State), exec i s = .next t → Claims.writesVF i = false → t.getV 15 = s.getV 15

/-- 10_state.md R25, R29 to R33, R37, and for memory 20_memory.md R57: which instructions can change each component. -/
def Obligations.ComponentsChangeOnlyByTheirWriters : Prop :=
  ∀ (i : Instr) (s t : State), exec i s = .next t →
    (t.disp ≠ s.disp → i = .cls ∨ ∃ x y n, i = .drw x y n) ∧
    (t.mem ≠ s.mem → ∃ x, i = .ldB x ∨ i = .storeRegs x) ∧
    (t.i ≠ s.i → (∃ nnn, i = .ldI nnn) ∨ ∃ x, i = .addI x ∨ i = .ldF x ∨ i = .storeRegs x ∨ i = .loadRegs x) ∧
    (t.sp ≠ s.sp → i = .ret ∨ ∃ nnn, i = .call nnn) ∧
    (t.stack ≠ s.stack → ∃ nnn, i = .call nnn) ∧
    (t.dt ≠ s.dt → ∃ x, i = .ldDTVx x) ∧
    (t.st ≠ s.st → ∃ x, i = .ldSTVx x) ∧
    (t.mode ≠ s.mode → ∃ x, i = .ldVxK x) ∧
    t.keys = s.keys

/-- R31: no instruction reads ST. Two states that differ in ST alone go to states that differ in ST alone, or, after Fx18, not at all. -/
def Obligations.SoundTimerIsReadByNoInstruction : Prop :=
  ∀ (i : Instr) (s t : State) (b : Byte), exec i s = .next t →
    ∃ u, exec i { s with st := b } = .next u ∧ { u with st := t.st } = t ∧
      (u.st = t.st ∨ ((∀ x, i ≠ .ldSTVx x) ∧ u.st = b ∧ t.st = s.st))

/-- R30: entries at index SP and above are not observable. Two states that differ in one such entry go to states that agree on everything
but entries at or above the new SP. -/
def Obligations.DeadStackEntriesAreUnobservable : Prop :=
  ∀ (i : Instr) (s t : State) (j : Fin 16) (w : Word), s.sp.val ≤ j.val → exec i s = .next t →
    ∃ u, exec i { s with stack := s.stack.set j.val w } = .next u ∧ { u with stack := t.stack } = t ∧
      ∀ k : Fin 16, k.val < t.sp.val → u.stack[k.val] = t.stack[k.val]

/-! ### Invariants -/

/-- R25, R28, R35, R133: every step keeps the invariant: memory canonical, I <= 0x1000, PC <= 0x10FE, pushed addresses <= 0x1000, and while
the engine waits PC holds the address of the Fx0A it waits in. -/
def Obligations.StepKeepsTheInvariant : Prop :=
  ∀ s t : State, s.Inv → step s = .next t → t.Inv

/-- R257, R264, R266: every run of host operations keeps the invariant. -/
def Obligations.EveryRunKeepsTheInvariant : Prop :=
  ∀ (ops : List HostOp) (s t : State), s.Inv → s.runOps ops = .next t → t.Inv

/-- R25, R28, R35, R38: the state after reset meets the invariant. -/
def Obligations.ResetMeetsTheInvariant : Prop := State.reset.Inv

/-- R280: every constructed machine meets the invariant, whatever its image, glyphs and parameters. -/
def Obligations.ConstructionMeetsTheInvariant : Prop :=
  ∀ (image : List Byte) (glyphs : Vector Byte 80) (p : Params) (s : State), State.construct image glyphs p = .ok s → s.Inv

/-! ### Encoding (30_encoding.md) -/

/-- R83, R87: decoding an encoded instruction gives it back, for every instruction and every operand. -/
def Obligations.DecodeOfEncodeIsTheInstruction : Prop :=
  ∀ (i : Instr) (rest : List Byte), decode (encode i) = some i ∧ decodeBytes (encodeBytes i ++ rest) = .ok (i, rest)

/-- R89: no instruction word has a bit that decoding drops (y of 8xy6 and 8xyE is kept in the instruction). -/
def Obligations.EncodeOfDecodeIsTheWord : Prop :=
  ∀ (w : Word) (i : Instr), decode w = some i → encode i = w

/-- R87: the decoder follows the opcode map. A word decodes to an instruction exactly when it matches a row, to an instruction of that row,
and no word matches two rows. -/
def Obligations.DecoderFollowsTheOpcodeMap : Prop :=
  (∀ w : Word, decode w = none ↔ ∀ row ∈ opcodeMap, w &&& row.mask ≠ row.pattern) ∧
  (∀ (w : Word) (i : Instr), decode w = some i → ∀ row ∈ opcodeMap, w &&& row.mask = row.pattern → row.mnemonic = i.mnemonic) ∧
  (∀ w : Word, ∀ r₁ ∈ opcodeMap, ∀ r₂ ∈ opcodeMap, w &&& r₁.mask = r₁.pattern → w &&& r₂.mask = r₂.pattern → r₁ = r₂)

/-- R88: the illegal words are those of the listed groups. -/
def Obligations.IllegalWordsAreTheListedGroups : Prop :=
  ∀ w : Word, decode w = none ↔
    (w.toNat < 0x1000 ∧ w.toNat ≠ 0x00E0 ∧ w.toNat ≠ 0x00EE) ∨
    (w.toNat / 0x1000 = 0x5 ∧ w.toNat % 16 ≠ 0) ∨
    (w.toNat / 0x1000 = 0x8 ∧ w.toNat % 16 ∈ [0x8, 0x9, 0xA, 0xB, 0xC, 0xD, 0xF]) ∨
    (w.toNat / 0x1000 = 0x9 ∧ w.toNat % 16 ≠ 0) ∨
    (w.toNat / 0x1000 = 0xE ∧ w.toNat % 256 ∉ [0x9E, 0xA1]) ∨
    (w.toNat / 0x1000 = 0xF ∧ w.toNat % 256 ∉ [0x07, 0x0A, 0x15, 0x18, 0x1E, 0x29, 0x33, 0x55, 0x65])

/-- R87: some words of each family, written out from the opcode map. -/
def Obligations.SampleWordsDecode : Prop :=
  decode 0x00E0#16 = some .cls ∧ decode 0x2210#16 = some (.call 0x210) ∧ decode 0x3F01#16 = some (.seImm 15 0x01) ∧
  decode 0x8AB6#16 = some (.shr 10 11) ∧ decode 0xA300#16 = some (.ldI 0x300) ∧ decode 0xD125#16 = some (.drw 1 2 5) ∧
  decode 0xE5A1#16 = some (.sknp 5) ∧ decode 0xF365#16 = some (.loadRegs 3) ∧ decode 0xF10A#16 = some (.ldVxK 1) ∧
  decode 0x0123#16 = none ∧ decode 0xFFFF#16 = none

/-! ### Host operations (60_exceptions.md R257 to R266, 70_reset_and_hazards.md) -/

/-- R257: Tick lowers both timers by one, clamped at 0, and changes nothing else (one Tick for both timers is the spec's own decision D14). -/
def Obligations.TickCountsBothTimersDown : Prop :=
  ∀ s : State, s.tick.dt.toNat = s.dt.toNat - 1 ∧ s.tick.st.toNat = s.st.toNat - 1 ∧ Keeps s s.tick [.dt, .st]

/-- R264: SetKey(k, b) writes KEY[k] and changes nothing else. -/
def Obligations.SetKeyWritesOneKey : Prop :=
  ∀ (s : State) (k : Key) (b : Bool), (s.setKey k b).keys[k.val] = b ∧
    (∀ j : Key, j ≠ k → (s.setKey k b).keys[j.val] = s.keys[j.val]) ∧ Keeps s (s.setKey k b) [.keys]

/-- R38, R280, R282: Construct fails exactly on an image longer than 3584 bytes, and otherwise leaves every component at the value the table
of R38 gives (STACK, KEY, MODE, FAULT and code 7 are the spec's own decisions D13 and D17; notes/assumptions/9.md). -/
def Obligations.ConstructionSetsEveryComponent : Prop :=
  ∀ (image : List Byte) (glyphs : Vector Byte 80) (p : Params),
    (image.length > 3584 → State.construct image glyphs p = .error .oversizedImage) ∧ LoadError.oversizedImage.number = 7 ∧
    (image.length ≤ 3584 → ∃ s, State.construct image glyphs p = .ok s ∧
      (∀ r, s.getV r = 0) ∧ s.i = 0 ∧ s.pc = 0x200 ∧ s.sp.val = 0 ∧ (∀ j : Fin 16, s.stack[j.val] = 0) ∧
      (∀ a : Fin 80, s.readMem a.val = glyphs[a.val]) ∧
      (∀ a : Nat, 0x50 ≤ a → a < 0x200 → s.readMem a = 0) ∧
      (∀ j : Fin image.length, s.readMem (0x200 + j.val) = image[j.val]) ∧
      (∀ a : Nat, 0x200 + image.length ≤ a → s.readMem a = 0) ∧
      (∀ r c, s.pixel r c = false) ∧ s.dt = 0 ∧ s.st = 0 ∧ (∀ k : Key, s.keys[k.val] = false) ∧
      s.mode = .ready ∧ s.fault = none)

/-- State.reset is Construct with an empty image, the default glyph table and the default parameters. The defaults are the spec's, taken by
the model's choice (notes/assumptions/1.md, 2.md, 3.md). -/
def Obligations.ResetIsTheEmptyConstruction : Prop :=
  ∃ glyphs : Vector Byte 80, glyphs.toList = defaultGlyphs ∧ State.construct [] glyphs Params.default = .ok State.reset

/-! ### Infinite runs (60_exceptions.md R266) -/

/-- R266 (the spec's own decision D15): every infinite sequence of operations gives one infinite run from every state, and its first n
operations are the finite run of them. That a fault does not end it is the model's choice (notes/assumptions/5.md). -/
def Obligations.EveryScheduleHasOneInfiniteRun : Prop :=
  ∀ (s : State) (ops : Schedule), (∃! trace, s.IsRun ops trace) ∧
    ∀ (trace : Nat → State) (n : Nat), s.IsRun ops trace →
      s.runAlong ops n = .next (trace n) ∧ s.runOps ((List.range n).map ops) = .next (trace n)

/-- R25, R28, R35, R266: all states of an infinite run meet the invariant if the first does. -/
def Obligations.InfiniteRunsKeepTheInvariant : Prop :=
  ∀ (s : State) (ops : Schedule) (trace : Nat → State), s.Inv → s.IsRun ops trace → ∀ n, (trace n).Inv

/-- R222, R266, R270: under the fairness premise that the host keeps calling Step, and with a key that is pressed at some point of the run
and not released after it, a wait ends: some step completes the Fx0A and leaves PC two higher (level-sensitive: the spec's own decision
D6). -/
def Obligations.AFairlySteppedKeyWaitEnds : Prop :=
  ∀ (x : Reg) (k : Key) (s : State) (ops : Schedule) (trace : Nat → State) (pressed : Nat),
    s.fault = none → s.mode = .awaitKey x → s.IsRun ops trace → ops.KeepsCalling .step →
    (trace pressed).keys[k.val] = true → (∀ n, pressed ≤ n → ops n ≠ .setKey k false) →
    ∃ n, ops n = .step ∧ (∀ m, m ≤ n → (trace m).mode = .awaitKey x ∧ (trace m).pc = s.pc) ∧
      (trace (n + 1)).mode = .ready ∧ (trace (n + 1)).fault = none ∧ (trace (n + 1)).pc = s.pc + 2

/-- R257, R266: under the fairness premise that the host keeps calling Tick, DT reaches 0 in every infinite run whose steps leave DT alone. -/
def Obligations.AFairlyTickedDelayEnds : Prop :=
  ∀ (s : State) (ops : Schedule) (trace : Nat → State), s.IsRun ops trace → ops.KeepsCalling .tick →
    (∀ n, ops n = .step → (trace (n + 1)).dt = (trace n).dt) → ∃ n, ∀ m, n ≤ m → (trace m).dt = 0
end

