-- ==== Sys2Proof/Laws/Decode.lean ====
section
/-! SUPPORT. The fields of a word as arithmetic on its number, and the fields of each encoded layout. -/

namespace Sys2Proof

theorem fieldOp4_eq (w : Word) : fieldOp4 w = w.toNat / 4096 % 16 := by
  simp [fieldOp4, BitVec.extractLsb'_toNat, Nat.shiftRight_eq_div_pow]

theorem fieldX_val (w : Word) : (fieldX w).val = w.toNat / 256 % 16 := by
  simp [fieldX, Nat.shiftRight_eq_div_pow]

theorem fieldY_val (w : Word) : (fieldY w).val = w.toNat / 16 % 16 := by
  simp [fieldY, Nat.shiftRight_eq_div_pow]

theorem fieldN_val (w : Word) : (fieldN w).val = w.toNat % 16 := by
  simp [fieldN]

theorem fieldKk_toNat (w : Word) : (fieldKk w).toNat = w.toNat % 256 := by
  simp [fieldKk, BitVec.extractLsb'_toNat]

theorem fieldNnn_toNat (w : Word) : (fieldNnn w).toNat = w.toNat % 4096 := by
  simp [fieldNnn, BitVec.extractLsb'_toNat]

/-- The number of a word in format N. -/
theorem encodeN_toNat {op : Nat} (nnn : BitVec 12) (h : op < 16) : (encodeN op nnn).toNat = op * 4096 + nnn.toNat := by
  have := nnn.isLt
  simp [encodeN]; omega

/-- The number of a word in format XK or XS. -/
theorem encodeXK_toNat {op kk : Nat} (x : Reg) (h : op < 16) (hk : kk < 256) :
    (encodeXK op x kk).toNat = op * 4096 + x.val * 256 + kk := by
  have := x.isLt
  simp [encodeXK]; omega

/-- The number of a word in format XYS or XYN. -/
theorem encodeXYN_toNat {op n : Nat} (x y : Reg) (h : op < 16) (hn : n < 16) :
    (encodeXYN op x y n).toNat = op * 4096 + x.val * 256 + y.val * 16 + n := by
  have := x.isLt
  have := y.isLt
  simp [encodeXYN]; omega

/-- The fields of a word in format N. -/
theorem fields_encodeN {op : Nat} (nnn : BitVec 12) (h : op < 16) :
    fieldOp4 (encodeN op nnn) = op ∧ fieldNnn (encodeN op nnn) = nnn := by
  have := nnn.isLt
  refine ⟨?_, BitVec.eq_of_toNat_eq ?_⟩
  · rw [fieldOp4_eq, encodeN_toNat _ h]; omega
  · rw [fieldNnn_toNat, encodeN_toNat _ h]; omega

/-- The fields of a word in format XK or XS. -/
theorem fields_encodeXK {op kk : Nat} (x : Reg) (h : op < 16) (hk : kk < 256) :
    fieldOp4 (encodeXK op x kk) = op ∧ fieldX (encodeXK op x kk) = x ∧ (fieldKk (encodeXK op x kk)).toNat = kk := by
  have := x.isLt
  refine ⟨?_, Fin.ext ?_, ?_⟩
  · rw [fieldOp4_eq, encodeXK_toNat _ h hk]; omega
  · rw [fieldX_val, encodeXK_toNat _ h hk]; omega
  · rw [fieldKk_toNat, encodeXK_toNat _ h hk]; omega

/-- The fields of a word in format XYS or XYN. -/
theorem fields_encodeXYN {op n : Nat} (x y : Reg) (h : op < 16) (hn : n < 16) :
    fieldOp4 (encodeXYN op x y n) = op ∧ fieldX (encodeXYN op x y n) = x ∧ fieldY (encodeXYN op x y n) = y ∧
      (fieldN (encodeXYN op x y n)).val = n := by
  have := x.isLt
  have := y.isLt
  refine ⟨?_, Fin.ext ?_, Fin.ext ?_, ?_⟩
  · rw [fieldOp4_eq, encodeXYN_toNat _ _ h hn]; omega
  · rw [fieldX_val, encodeXYN_toNat _ _ h hn]; omega
  · rw [fieldY_val, encodeXYN_toNat _ _ h hn]; omega
  · rw [fieldN_val, encodeXYN_toNat _ _ h hn]; omega

/-- A word is the big-endian join of its two bytes (20_memory.md R54). -/
theorem wordOfBytes_bytes (w : Word) : wordOfBytes (highByte w) (lowByte w) = w := by
  apply BitVec.eq_of_getLsbD_eq
  intro i hi
  simp only [wordOfBytes, highByte, lowByte, BitVec.getLsbD_append, BitVec.getLsbD_extractLsb']
  by_cases h : i < 8
  · simp [h]
  · simp only [h, decide_false]
    rw [show 8 + (i - 8) = i by omega]
    simp; omega

/-- What the masks of the opcode map keep of a word: op4, and the lowest k bits. The map's masks are the k = 0, 4 and 8 cases. -/
theorem maskedWord_toNat (w m : Word) (k : Nat) (hm : m.toNat = 15 * 4096 + (2 ^ k - 1)) (hk : k ≤ 12) :
    (w &&& m).toNat = w.toNat / 4096 * 4096 + w.toNat % 2 ^ k := by
  have hw := w.isLt
  have hp : 2 ^ k ≤ 2 ^ 12 := Nat.pow_le_pow_right (by decide) hk
  have hpos : 0 < 2 ^ k := Nat.two_pow_pos k
  have high : (w.toNat &&& m.toNat) / 2 ^ 12 = w.toNat / 4096 := by
    rw [Nat.and_div_two_pow, hm, show (15 * 4096 + (2 ^ k - 1)) / 2 ^ 12 = 2 ^ 4 - 1 by omega, Nat.and_two_pow_sub_one_eq_mod]
    omega
  have low : (w.toNat &&& m.toNat) % 2 ^ 12 = w.toNat % 2 ^ k := by
    rw [Nat.and_mod_two_pow, hm, show (15 * 4096 + (2 ^ k - 1)) % 2 ^ 12 = 2 ^ k - 1 by omega, Nat.and_two_pow_sub_one_eq_mod,
      Nat.mod_mod_of_dvd _ (Nat.pow_dvd_pow 2 hk)]
  rw [BitVec.toNat_and]
  omega

/-- Matching a row of the opcode map is an equation of numbers. -/
theorem maskedWord_eq_iff (w m p : Word) (k : Nat) (hm : m.toNat = 15 * 4096 + (2 ^ k - 1)) (hk : k ≤ 12) :
    w &&& m = p ↔ w.toNat / 4096 * 4096 + w.toNat % 2 ^ k = p.toNat := by
  rw [← maskedWord_toNat w m k hm hk]
  exact ⟨fun e => by rw [e], BitVec.eq_of_toNat_eq⟩

end Sys2Proof
end

