-- ==== Sys2Proof/Laws/State.lean ====
section
/-! SUPPORT. What each update of the state does to each field and to each view of it (one register, one byte, one pixel). With these no
proof unfolds a record update. -/

namespace Sys2Proof.Machine.State

variable (s : State)

/-! ### setV -/

@[simp] theorem setV_v (r : Reg) (b : Byte) : (s.setV r b).v = s.v.set r.val b := rfl
@[simp] theorem setV_i (r : Reg) (b : Byte) : (s.setV r b).i = s.i := rfl
@[simp] theorem setV_pc (r : Reg) (b : Byte) : (s.setV r b).pc = s.pc := rfl
@[simp] theorem setV_sp (r : Reg) (b : Byte) : (s.setV r b).sp = s.sp := rfl
@[simp] theorem setV_stack (r : Reg) (b : Byte) : (s.setV r b).stack = s.stack := rfl
@[simp] theorem setV_mem (r : Reg) (b : Byte) : (s.setV r b).mem = s.mem := rfl
@[simp] theorem setV_disp (r : Reg) (b : Byte) : (s.setV r b).disp = s.disp := rfl
@[simp] theorem setV_keys (r : Reg) (b : Byte) : (s.setV r b).keys = s.keys := rfl
@[simp] theorem setV_dt (r : Reg) (b : Byte) : (s.setV r b).dt = s.dt := rfl
@[simp] theorem setV_st (r : Reg) (b : Byte) : (s.setV r b).st = s.st := rfl
@[simp] theorem setV_mode (r : Reg) (b : Byte) : (s.setV r b).mode = s.mode := rfl
@[simp] theorem setV_fault (r : Reg) (b : Byte) : (s.setV r b).fault = s.fault := rfl
@[simp] theorem setV_params (r : Reg) (b : Byte) : (s.setV r b).params = s.params := rfl
@[simp] theorem setV_draws (r : Reg) (b : Byte) : (s.setV r b).draws = s.draws := rfl
@[simp] theorem setV_readMem (r : Reg) (b : Byte) (q : Nat) : (s.setV r b).readMem q = s.readMem q := rfl
@[simp] theorem setV_pixel (r : Reg) (b : Byte) (p : Fin 32) (q : Fin 64) : (s.setV r b).pixel p q = s.pixel p q := rfl

/-! ### setI -/

@[simp] theorem setI_v (w : Word) : (s.setI w).v = s.v := rfl
@[simp] theorem setI_i (w : Word) : (s.setI w).i = w := rfl
@[simp] theorem setI_pc (w : Word) : (s.setI w).pc = s.pc := rfl
@[simp] theorem setI_sp (w : Word) : (s.setI w).sp = s.sp := rfl
@[simp] theorem setI_stack (w : Word) : (s.setI w).stack = s.stack := rfl
@[simp] theorem setI_mem (w : Word) : (s.setI w).mem = s.mem := rfl
@[simp] theorem setI_disp (w : Word) : (s.setI w).disp = s.disp := rfl
@[simp] theorem setI_keys (w : Word) : (s.setI w).keys = s.keys := rfl
@[simp] theorem setI_dt (w : Word) : (s.setI w).dt = s.dt := rfl
@[simp] theorem setI_st (w : Word) : (s.setI w).st = s.st := rfl
@[simp] theorem setI_mode (w : Word) : (s.setI w).mode = s.mode := rfl
@[simp] theorem setI_fault (w : Word) : (s.setI w).fault = s.fault := rfl
@[simp] theorem setI_params (w : Word) : (s.setI w).params = s.params := rfl
@[simp] theorem setI_draws (w : Word) : (s.setI w).draws = s.draws := rfl
@[simp] theorem setI_getV (w : Word) (q : Reg) : (s.setI w).getV q = s.getV q := rfl
@[simp] theorem setI_readMem (w : Word) (q : Nat) : (s.setI w).readMem q = s.readMem q := rfl
@[simp] theorem setI_pixel (w : Word) (p : Fin 32) (q : Fin 64) : (s.setI w).pixel p q = s.pixel p q := rfl

/-! ### jump -/

@[simp] theorem jump_v (w : Word) : (s.jump w).v = s.v := rfl
@[simp] theorem jump_i (w : Word) : (s.jump w).i = s.i := rfl
@[simp] theorem jump_pc (w : Word) : (s.jump w).pc = w := rfl
@[simp] theorem jump_sp (w : Word) : (s.jump w).sp = s.sp := rfl
@[simp] theorem jump_stack (w : Word) : (s.jump w).stack = s.stack := rfl
@[simp] theorem jump_mem (w : Word) : (s.jump w).mem = s.mem := rfl
@[simp] theorem jump_disp (w : Word) : (s.jump w).disp = s.disp := rfl
@[simp] theorem jump_keys (w : Word) : (s.jump w).keys = s.keys := rfl
@[simp] theorem jump_dt (w : Word) : (s.jump w).dt = s.dt := rfl
@[simp] theorem jump_st (w : Word) : (s.jump w).st = s.st := rfl
@[simp] theorem jump_mode (w : Word) : (s.jump w).mode = s.mode := rfl
@[simp] theorem jump_fault (w : Word) : (s.jump w).fault = s.fault := rfl
@[simp] theorem jump_params (w : Word) : (s.jump w).params = s.params := rfl
@[simp] theorem jump_draws (w : Word) : (s.jump w).draws = s.draws := rfl
@[simp] theorem jump_getV (w : Word) (q : Reg) : (s.jump w).getV q = s.getV q := rfl
@[simp] theorem jump_readMem (w : Word) (q : Nat) : (s.jump w).readMem q = s.readMem q := rfl
@[simp] theorem jump_pixel (w : Word) (p : Fin 32) (q : Fin 64) : (s.jump w).pixel p q = s.pixel p q := rfl

/-! ### advance -/

@[simp] theorem advance_v : s.advance.v = s.v := rfl
@[simp] theorem advance_i : s.advance.i = s.i := rfl
@[simp] theorem advance_pc : s.advance.pc = s.pc + 2 := rfl
@[simp] theorem advance_sp : s.advance.sp = s.sp := rfl
@[simp] theorem advance_stack : s.advance.stack = s.stack := rfl
@[simp] theorem advance_mem : s.advance.mem = s.mem := rfl
@[simp] theorem advance_disp : s.advance.disp = s.disp := rfl
@[simp] theorem advance_keys : s.advance.keys = s.keys := rfl
@[simp] theorem advance_dt : s.advance.dt = s.dt := rfl
@[simp] theorem advance_st : s.advance.st = s.st := rfl
@[simp] theorem advance_mode : s.advance.mode = s.mode := rfl
@[simp] theorem advance_fault : s.advance.fault = s.fault := rfl
@[simp] theorem advance_params : s.advance.params = s.params := rfl
@[simp] theorem advance_draws : s.advance.draws = s.draws := rfl
@[simp] theorem advance_getV (q : Reg) : s.advance.getV q = s.getV q := rfl
@[simp] theorem advance_readMem (q : Nat) : s.advance.readMem q = s.readMem q := rfl
@[simp] theorem advance_pixel (p : Fin 32) (q : Fin 64) : s.advance.pixel p q = s.pixel p q := rfl

/-! ### skipIf -/

@[simp] theorem skipIf_v (c : Bool) : (s.skipIf c).v = s.v := rfl
@[simp] theorem skipIf_i (c : Bool) : (s.skipIf c).i = s.i := rfl
@[simp] theorem skipIf_pc (c : Bool) : (s.skipIf c).pc = if c then s.pc + 4 else s.pc + 2 := rfl
@[simp] theorem skipIf_sp (c : Bool) : (s.skipIf c).sp = s.sp := rfl
@[simp] theorem skipIf_stack (c : Bool) : (s.skipIf c).stack = s.stack := rfl
@[simp] theorem skipIf_mem (c : Bool) : (s.skipIf c).mem = s.mem := rfl
@[simp] theorem skipIf_disp (c : Bool) : (s.skipIf c).disp = s.disp := rfl
@[simp] theorem skipIf_keys (c : Bool) : (s.skipIf c).keys = s.keys := rfl
@[simp] theorem skipIf_dt (c : Bool) : (s.skipIf c).dt = s.dt := rfl
@[simp] theorem skipIf_st (c : Bool) : (s.skipIf c).st = s.st := rfl
@[simp] theorem skipIf_mode (c : Bool) : (s.skipIf c).mode = s.mode := rfl
@[simp] theorem skipIf_fault (c : Bool) : (s.skipIf c).fault = s.fault := rfl
@[simp] theorem skipIf_params (c : Bool) : (s.skipIf c).params = s.params := rfl
@[simp] theorem skipIf_draws (c : Bool) : (s.skipIf c).draws = s.draws := rfl
@[simp] theorem skipIf_getV (c : Bool) (q : Reg) : (s.skipIf c).getV q = s.getV q := rfl
@[simp] theorem skipIf_readMem (c : Bool) (q : Nat) : (s.skipIf c).readMem q = s.readMem q := rfl
@[simp] theorem skipIf_pixel (c : Bool) (p : Fin 32) (q : Fin 64) : (s.skipIf c).pixel p q = s.pixel p q := rfl

/-! ### setDt -/

@[simp] theorem setDt_v (b : Byte) : (s.setDt b).v = s.v := rfl
@[simp] theorem setDt_i (b : Byte) : (s.setDt b).i = s.i := rfl
@[simp] theorem setDt_pc (b : Byte) : (s.setDt b).pc = s.pc := rfl
@[simp] theorem setDt_sp (b : Byte) : (s.setDt b).sp = s.sp := rfl
@[simp] theorem setDt_stack (b : Byte) : (s.setDt b).stack = s.stack := rfl
@[simp] theorem setDt_mem (b : Byte) : (s.setDt b).mem = s.mem := rfl
@[simp] theorem setDt_disp (b : Byte) : (s.setDt b).disp = s.disp := rfl
@[simp] theorem setDt_keys (b : Byte) : (s.setDt b).keys = s.keys := rfl
@[simp] theorem setDt_dt (b : Byte) : (s.setDt b).dt = b := rfl
@[simp] theorem setDt_st (b : Byte) : (s.setDt b).st = s.st := rfl
@[simp] theorem setDt_mode (b : Byte) : (s.setDt b).mode = s.mode := rfl
@[simp] theorem setDt_fault (b : Byte) : (s.setDt b).fault = s.fault := rfl
@[simp] theorem setDt_params (b : Byte) : (s.setDt b).params = s.params := rfl
@[simp] theorem setDt_draws (b : Byte) : (s.setDt b).draws = s.draws := rfl
@[simp] theorem setDt_getV (b : Byte) (q : Reg) : (s.setDt b).getV q = s.getV q := rfl
@[simp] theorem setDt_readMem (b : Byte) (q : Nat) : (s.setDt b).readMem q = s.readMem q := rfl
@[simp] theorem setDt_pixel (b : Byte) (p : Fin 32) (q : Fin 64) : (s.setDt b).pixel p q = s.pixel p q := rfl

/-! ### setSt -/

@[simp] theorem setSt_v (b : Byte) : (s.setSt b).v = s.v := rfl
@[simp] theorem setSt_i (b : Byte) : (s.setSt b).i = s.i := rfl
@[simp] theorem setSt_pc (b : Byte) : (s.setSt b).pc = s.pc := rfl
@[simp] theorem setSt_sp (b : Byte) : (s.setSt b).sp = s.sp := rfl
@[simp] theorem setSt_stack (b : Byte) : (s.setSt b).stack = s.stack := rfl
@[simp] theorem setSt_mem (b : Byte) : (s.setSt b).mem = s.mem := rfl
@[simp] theorem setSt_disp (b : Byte) : (s.setSt b).disp = s.disp := rfl
@[simp] theorem setSt_keys (b : Byte) : (s.setSt b).keys = s.keys := rfl
@[simp] theorem setSt_dt (b : Byte) : (s.setSt b).dt = s.dt := rfl
@[simp] theorem setSt_st (b : Byte) : (s.setSt b).st = b := rfl
@[simp] theorem setSt_mode (b : Byte) : (s.setSt b).mode = s.mode := rfl
@[simp] theorem setSt_fault (b : Byte) : (s.setSt b).fault = s.fault := rfl
@[simp] theorem setSt_params (b : Byte) : (s.setSt b).params = s.params := rfl
@[simp] theorem setSt_draws (b : Byte) : (s.setSt b).draws = s.draws := rfl
@[simp] theorem setSt_getV (b : Byte) (q : Reg) : (s.setSt b).getV q = s.getV q := rfl
@[simp] theorem setSt_readMem (b : Byte) (q : Nat) : (s.setSt b).readMem q = s.readMem q := rfl
@[simp] theorem setSt_pixel (b : Byte) (p : Fin 32) (q : Fin 64) : (s.setSt b).pixel p q = s.pixel p q := rfl

/-! ### setMode -/

@[simp] theorem setMode_v (m : Mode) : (s.setMode m).v = s.v := rfl
@[simp] theorem setMode_i (m : Mode) : (s.setMode m).i = s.i := rfl
@[simp] theorem setMode_pc (m : Mode) : (s.setMode m).pc = s.pc := rfl
@[simp] theorem setMode_sp (m : Mode) : (s.setMode m).sp = s.sp := rfl
@[simp] theorem setMode_stack (m : Mode) : (s.setMode m).stack = s.stack := rfl
@[simp] theorem setMode_mem (m : Mode) : (s.setMode m).mem = s.mem := rfl
@[simp] theorem setMode_disp (m : Mode) : (s.setMode m).disp = s.disp := rfl
@[simp] theorem setMode_keys (m : Mode) : (s.setMode m).keys = s.keys := rfl
@[simp] theorem setMode_dt (m : Mode) : (s.setMode m).dt = s.dt := rfl
@[simp] theorem setMode_st (m : Mode) : (s.setMode m).st = s.st := rfl
@[simp] theorem setMode_mode (m : Mode) : (s.setMode m).mode = m := rfl
@[simp] theorem setMode_fault (m : Mode) : (s.setMode m).fault = s.fault := rfl
@[simp] theorem setMode_params (m : Mode) : (s.setMode m).params = s.params := rfl
@[simp] theorem setMode_draws (m : Mode) : (s.setMode m).draws = s.draws := rfl
@[simp] theorem setMode_getV (m : Mode) (q : Reg) : (s.setMode m).getV q = s.getV q := rfl
@[simp] theorem setMode_readMem (m : Mode) (q : Nat) : (s.setMode m).readMem q = s.readMem q := rfl
@[simp] theorem setMode_pixel (m : Mode) (p : Fin 32) (q : Fin 64) : (s.setMode m).pixel p q = s.pixel p q := rfl

/-! ### setDisp -/

@[simp] theorem setDisp_v (d : Display) : (s.setDisp d).v = s.v := rfl
@[simp] theorem setDisp_i (d : Display) : (s.setDisp d).i = s.i := rfl
@[simp] theorem setDisp_pc (d : Display) : (s.setDisp d).pc = s.pc := rfl
@[simp] theorem setDisp_sp (d : Display) : (s.setDisp d).sp = s.sp := rfl
@[simp] theorem setDisp_stack (d : Display) : (s.setDisp d).stack = s.stack := rfl
@[simp] theorem setDisp_mem (d : Display) : (s.setDisp d).mem = s.mem := rfl
@[simp] theorem setDisp_disp (d : Display) : (s.setDisp d).disp = d := rfl
@[simp] theorem setDisp_keys (d : Display) : (s.setDisp d).keys = s.keys := rfl
@[simp] theorem setDisp_dt (d : Display) : (s.setDisp d).dt = s.dt := rfl
@[simp] theorem setDisp_st (d : Display) : (s.setDisp d).st = s.st := rfl
@[simp] theorem setDisp_mode (d : Display) : (s.setDisp d).mode = s.mode := rfl
@[simp] theorem setDisp_fault (d : Display) : (s.setDisp d).fault = s.fault := rfl
@[simp] theorem setDisp_params (d : Display) : (s.setDisp d).params = s.params := rfl
@[simp] theorem setDisp_draws (d : Display) : (s.setDisp d).draws = s.draws := rfl
@[simp] theorem setDisp_getV (d : Display) (q : Reg) : (s.setDisp d).getV q = s.getV q := rfl
@[simp] theorem setDisp_readMem (d : Display) (q : Nat) : (s.setDisp d).readMem q = s.readMem q := rfl

/-! ### setRegsTo -/

@[simp] theorem setRegsTo_v (x : Reg) (f : Nat → Byte) : (s.setRegsTo x f).v = Vector.ofFn (fun j : Fin 16 => if j.val ≤ x.val then f j.val else s.v[j.val]) := rfl
@[simp] theorem setRegsTo_i (x : Reg) (f : Nat → Byte) : (s.setRegsTo x f).i = s.i := rfl
@[simp] theorem setRegsTo_pc (x : Reg) (f : Nat → Byte) : (s.setRegsTo x f).pc = s.pc := rfl
@[simp] theorem setRegsTo_sp (x : Reg) (f : Nat → Byte) : (s.setRegsTo x f).sp = s.sp := rfl
@[simp] theorem setRegsTo_stack (x : Reg) (f : Nat → Byte) : (s.setRegsTo x f).stack = s.stack := rfl
@[simp] theorem setRegsTo_mem (x : Reg) (f : Nat → Byte) : (s.setRegsTo x f).mem = s.mem := rfl
@[simp] theorem setRegsTo_disp (x : Reg) (f : Nat → Byte) : (s.setRegsTo x f).disp = s.disp := rfl
@[simp] theorem setRegsTo_keys (x : Reg) (f : Nat → Byte) : (s.setRegsTo x f).keys = s.keys := rfl
@[simp] theorem setRegsTo_dt (x : Reg) (f : Nat → Byte) : (s.setRegsTo x f).dt = s.dt := rfl
@[simp] theorem setRegsTo_st (x : Reg) (f : Nat → Byte) : (s.setRegsTo x f).st = s.st := rfl
@[simp] theorem setRegsTo_mode (x : Reg) (f : Nat → Byte) : (s.setRegsTo x f).mode = s.mode := rfl
@[simp] theorem setRegsTo_fault (x : Reg) (f : Nat → Byte) : (s.setRegsTo x f).fault = s.fault := rfl
@[simp] theorem setRegsTo_params (x : Reg) (f : Nat → Byte) : (s.setRegsTo x f).params = s.params := rfl
@[simp] theorem setRegsTo_draws (x : Reg) (f : Nat → Byte) : (s.setRegsTo x f).draws = s.draws := rfl
@[simp] theorem setRegsTo_readMem (x : Reg) (f : Nat → Byte) (q : Nat) : (s.setRegsTo x f).readMem q = s.readMem q := rfl
@[simp] theorem setRegsTo_pixel (x : Reg) (f : Nat → Byte) (p : Fin 32) (q : Fin 64) : (s.setRegsTo x f).pixel p q = s.pixel p q := rfl

/-! ### push -/

@[simp] theorem push_v (w : Word) (h : s.sp.val < 16) : (s.push w h).v = s.v := rfl
@[simp] theorem push_i (w : Word) (h : s.sp.val < 16) : (s.push w h).i = s.i := rfl
@[simp] theorem push_pc (w : Word) (h : s.sp.val < 16) : (s.push w h).pc = s.pc := rfl
@[simp] theorem push_sp (w : Word) (h : s.sp.val < 16) : (s.push w h).sp = ⟨s.sp.val + 1, by omega⟩ := rfl
@[simp] theorem push_stack (w : Word) (h : s.sp.val < 16) : (s.push w h).stack = s.stack.set s.sp.val w := rfl
@[simp] theorem push_mem (w : Word) (h : s.sp.val < 16) : (s.push w h).mem = s.mem := rfl
@[simp] theorem push_disp (w : Word) (h : s.sp.val < 16) : (s.push w h).disp = s.disp := rfl
@[simp] theorem push_keys (w : Word) (h : s.sp.val < 16) : (s.push w h).keys = s.keys := rfl
@[simp] theorem push_dt (w : Word) (h : s.sp.val < 16) : (s.push w h).dt = s.dt := rfl
@[simp] theorem push_st (w : Word) (h : s.sp.val < 16) : (s.push w h).st = s.st := rfl
@[simp] theorem push_mode (w : Word) (h : s.sp.val < 16) : (s.push w h).mode = s.mode := rfl
@[simp] theorem push_fault (w : Word) (h : s.sp.val < 16) : (s.push w h).fault = s.fault := rfl
@[simp] theorem push_params (w : Word) (h : s.sp.val < 16) : (s.push w h).params = s.params := rfl
@[simp] theorem push_draws (w : Word) (h : s.sp.val < 16) : (s.push w h).draws = s.draws := rfl
@[simp] theorem push_getV (w : Word) (h : s.sp.val < 16) (q : Reg) : (s.push w h).getV q = s.getV q := rfl
@[simp] theorem push_readMem (w : Word) (h : s.sp.val < 16) (q : Nat) : (s.push w h).readMem q = s.readMem q := rfl
@[simp] theorem push_pixel (w : Word) (h : s.sp.val < 16) (p : Fin 32) (q : Fin 64) : (s.push w h).pixel p q = s.pixel p q := rfl

/-! ### drop -/

@[simp] theorem drop_v (h : 0 < s.sp.val) : (s.drop h).v = s.v := rfl
@[simp] theorem drop_i (h : 0 < s.sp.val) : (s.drop h).i = s.i := rfl
@[simp] theorem drop_pc (h : 0 < s.sp.val) : (s.drop h).pc = s.pc := rfl
@[simp] theorem drop_sp (h : 0 < s.sp.val) : (s.drop h).sp = ⟨s.sp.val - 1, by omega⟩ := rfl
@[simp] theorem drop_stack (h : 0 < s.sp.val) : (s.drop h).stack = s.stack := rfl
@[simp] theorem drop_mem (h : 0 < s.sp.val) : (s.drop h).mem = s.mem := rfl
@[simp] theorem drop_disp (h : 0 < s.sp.val) : (s.drop h).disp = s.disp := rfl
@[simp] theorem drop_keys (h : 0 < s.sp.val) : (s.drop h).keys = s.keys := rfl
@[simp] theorem drop_dt (h : 0 < s.sp.val) : (s.drop h).dt = s.dt := rfl
@[simp] theorem drop_st (h : 0 < s.sp.val) : (s.drop h).st = s.st := rfl
@[simp] theorem drop_mode (h : 0 < s.sp.val) : (s.drop h).mode = s.mode := rfl
@[simp] theorem drop_fault (h : 0 < s.sp.val) : (s.drop h).fault = s.fault := rfl
@[simp] theorem drop_params (h : 0 < s.sp.val) : (s.drop h).params = s.params := rfl
@[simp] theorem drop_draws (h : 0 < s.sp.val) : (s.drop h).draws = s.draws := rfl
@[simp] theorem drop_getV (h : 0 < s.sp.val) (q : Reg) : (s.drop h).getV q = s.getV q := rfl
@[simp] theorem drop_readMem (h : 0 < s.sp.val) (q : Nat) : (s.drop h).readMem q = s.readMem q := rfl
@[simp] theorem drop_pixel (h : 0 < s.sp.val) (p : Fin 32) (q : Fin 64) : (s.drop h).pixel p q = s.pixel p q := rfl

/-! ### tookDraw -/

@[simp] theorem tookDraw_v : s.tookDraw.v = s.v := rfl
@[simp] theorem tookDraw_i : s.tookDraw.i = s.i := rfl
@[simp] theorem tookDraw_pc : s.tookDraw.pc = s.pc := rfl
@[simp] theorem tookDraw_sp : s.tookDraw.sp = s.sp := rfl
@[simp] theorem tookDraw_stack : s.tookDraw.stack = s.stack := rfl
@[simp] theorem tookDraw_mem : s.tookDraw.mem = s.mem := rfl
@[simp] theorem tookDraw_disp : s.tookDraw.disp = s.disp := rfl
@[simp] theorem tookDraw_keys : s.tookDraw.keys = s.keys := rfl
@[simp] theorem tookDraw_dt : s.tookDraw.dt = s.dt := rfl
@[simp] theorem tookDraw_st : s.tookDraw.st = s.st := rfl
@[simp] theorem tookDraw_mode : s.tookDraw.mode = s.mode := rfl
@[simp] theorem tookDraw_fault : s.tookDraw.fault = s.fault := rfl
@[simp] theorem tookDraw_params : s.tookDraw.params = s.params := rfl
@[simp] theorem tookDraw_draws : s.tookDraw.draws = s.draws + 1 := rfl
@[simp] theorem tookDraw_getV (q : Reg) : s.tookDraw.getV q = s.getV q := rfl
@[simp] theorem tookDraw_readMem (q : Nat) : s.tookDraw.readMem q = s.readMem q := rfl
@[simp] theorem tookDraw_pixel (p : Fin 32) (q : Fin 64) : s.tookDraw.pixel p q = s.pixel p q := rfl

/-! ### storeBytes -/

@[simp] theorem storeBytes_v (a : Nat) (bs : List Byte) : (s.storeBytes a bs).v = s.v := rfl
@[simp] theorem storeBytes_i (a : Nat) (bs : List Byte) : (s.storeBytes a bs).i = s.i := rfl
@[simp] theorem storeBytes_pc (a : Nat) (bs : List Byte) : (s.storeBytes a bs).pc = s.pc := rfl
@[simp] theorem storeBytes_sp (a : Nat) (bs : List Byte) : (s.storeBytes a bs).sp = s.sp := rfl
@[simp] theorem storeBytes_stack (a : Nat) (bs : List Byte) : (s.storeBytes a bs).stack = s.stack := rfl
@[simp] theorem storeBytes_mem (a : Nat) (bs : List Byte) : (s.storeBytes a bs).mem = Memory.writeBytes s.mem a bs := rfl
@[simp] theorem storeBytes_disp (a : Nat) (bs : List Byte) : (s.storeBytes a bs).disp = s.disp := rfl
@[simp] theorem storeBytes_keys (a : Nat) (bs : List Byte) : (s.storeBytes a bs).keys = s.keys := rfl
@[simp] theorem storeBytes_dt (a : Nat) (bs : List Byte) : (s.storeBytes a bs).dt = s.dt := rfl
@[simp] theorem storeBytes_st (a : Nat) (bs : List Byte) : (s.storeBytes a bs).st = s.st := rfl
@[simp] theorem storeBytes_mode (a : Nat) (bs : List Byte) : (s.storeBytes a bs).mode = s.mode := rfl
@[simp] theorem storeBytes_fault (a : Nat) (bs : List Byte) : (s.storeBytes a bs).fault = s.fault := rfl
@[simp] theorem storeBytes_params (a : Nat) (bs : List Byte) : (s.storeBytes a bs).params = s.params := rfl
@[simp] theorem storeBytes_draws (a : Nat) (bs : List Byte) : (s.storeBytes a bs).draws = s.draws := rfl
@[simp] theorem storeBytes_getV (a : Nat) (bs : List Byte) (q : Reg) : (s.storeBytes a bs).getV q = s.getV q := rfl
@[simp] theorem storeBytes_pixel (a : Nat) (bs : List Byte) (p : Fin 32) (q : Fin 64) : (s.storeBytes a bs).pixel p q = s.pixel p q := rfl

/-! ### raise -/

@[simp] theorem raise_v (c : FaultCode) (w : Option Word) (d : FaultDetail) : (s.raise c w d).v = s.v := rfl
@[simp] theorem raise_i (c : FaultCode) (w : Option Word) (d : FaultDetail) : (s.raise c w d).i = s.i := rfl
@[simp] theorem raise_pc (c : FaultCode) (w : Option Word) (d : FaultDetail) : (s.raise c w d).pc = s.pc := rfl
@[simp] theorem raise_sp (c : FaultCode) (w : Option Word) (d : FaultDetail) : (s.raise c w d).sp = s.sp := rfl
@[simp] theorem raise_stack (c : FaultCode) (w : Option Word) (d : FaultDetail) : (s.raise c w d).stack = s.stack := rfl
@[simp] theorem raise_mem (c : FaultCode) (w : Option Word) (d : FaultDetail) : (s.raise c w d).mem = s.mem := rfl
@[simp] theorem raise_disp (c : FaultCode) (w : Option Word) (d : FaultDetail) : (s.raise c w d).disp = s.disp := rfl
@[simp] theorem raise_keys (c : FaultCode) (w : Option Word) (d : FaultDetail) : (s.raise c w d).keys = s.keys := rfl
@[simp] theorem raise_dt (c : FaultCode) (w : Option Word) (d : FaultDetail) : (s.raise c w d).dt = s.dt := rfl
@[simp] theorem raise_st (c : FaultCode) (w : Option Word) (d : FaultDetail) : (s.raise c w d).st = s.st := rfl
@[simp] theorem raise_mode (c : FaultCode) (w : Option Word) (d : FaultDetail) : (s.raise c w d).mode = s.mode := rfl
@[simp] theorem raise_fault (c : FaultCode) (w : Option Word) (d : FaultDetail) : (s.raise c w d).fault = some ⟨c, s.pc, w, d⟩ := rfl
@[simp] theorem raise_params (c : FaultCode) (w : Option Word) (d : FaultDetail) : (s.raise c w d).params = s.params := rfl
@[simp] theorem raise_draws (c : FaultCode) (w : Option Word) (d : FaultDetail) : (s.raise c w d).draws = s.draws := rfl
@[simp] theorem raise_getV (c : FaultCode) (w : Option Word) (d : FaultDetail) (q : Reg) : (s.raise c w d).getV q = s.getV q := rfl
@[simp] theorem raise_readMem (c : FaultCode) (w : Option Word) (d : FaultDetail) (q : Nat) : (s.raise c w d).readMem q = s.readMem q := rfl
@[simp] theorem raise_pixel (c : FaultCode) (w : Option Word) (d : FaultDetail) (p : Fin 32) (q : Fin 64) : (s.raise c w d).pixel p q = s.pixel p q := rfl

/-! ### tick -/

@[simp] theorem tick_v : s.tick.v = s.v := rfl
@[simp] theorem tick_i : s.tick.i = s.i := rfl
@[simp] theorem tick_pc : s.tick.pc = s.pc := rfl
@[simp] theorem tick_sp : s.tick.sp = s.sp := rfl
@[simp] theorem tick_stack : s.tick.stack = s.stack := rfl
@[simp] theorem tick_mem : s.tick.mem = s.mem := rfl
@[simp] theorem tick_disp : s.tick.disp = s.disp := rfl
@[simp] theorem tick_keys : s.tick.keys = s.keys := rfl
@[simp] theorem tick_dt : s.tick.dt = countDown s.dt := rfl
@[simp] theorem tick_st : s.tick.st = countDown s.st := rfl
@[simp] theorem tick_mode : s.tick.mode = s.mode := rfl
@[simp] theorem tick_fault : s.tick.fault = s.fault := rfl
@[simp] theorem tick_params : s.tick.params = s.params := rfl
@[simp] theorem tick_draws : s.tick.draws = s.draws := rfl
@[simp] theorem tick_getV (q : Reg) : s.tick.getV q = s.getV q := rfl
@[simp] theorem tick_readMem (q : Nat) : s.tick.readMem q = s.readMem q := rfl
@[simp] theorem tick_pixel (p : Fin 32) (q : Fin 64) : s.tick.pixel p q = s.pixel p q := rfl

/-! ### setKey -/

@[simp] theorem setKey_v (k : Key) (b : Bool) : (s.setKey k b).v = s.v := rfl
@[simp] theorem setKey_i (k : Key) (b : Bool) : (s.setKey k b).i = s.i := rfl
@[simp] theorem setKey_pc (k : Key) (b : Bool) : (s.setKey k b).pc = s.pc := rfl
@[simp] theorem setKey_sp (k : Key) (b : Bool) : (s.setKey k b).sp = s.sp := rfl
@[simp] theorem setKey_stack (k : Key) (b : Bool) : (s.setKey k b).stack = s.stack := rfl
@[simp] theorem setKey_mem (k : Key) (b : Bool) : (s.setKey k b).mem = s.mem := rfl
@[simp] theorem setKey_disp (k : Key) (b : Bool) : (s.setKey k b).disp = s.disp := rfl
@[simp] theorem setKey_keys (k : Key) (b : Bool) : (s.setKey k b).keys = s.keys.set k.val b := rfl
@[simp] theorem setKey_dt (k : Key) (b : Bool) : (s.setKey k b).dt = s.dt := rfl
@[simp] theorem setKey_st (k : Key) (b : Bool) : (s.setKey k b).st = s.st := rfl
@[simp] theorem setKey_mode (k : Key) (b : Bool) : (s.setKey k b).mode = s.mode := rfl
@[simp] theorem setKey_fault (k : Key) (b : Bool) : (s.setKey k b).fault = s.fault := rfl
@[simp] theorem setKey_params (k : Key) (b : Bool) : (s.setKey k b).params = s.params := rfl
@[simp] theorem setKey_draws (k : Key) (b : Bool) : (s.setKey k b).draws = s.draws := rfl
@[simp] theorem setKey_getV (k : Key) (b : Bool) (q : Reg) : (s.setKey k b).getV q = s.getV q := rfl
@[simp] theorem setKey_readMem (k : Key) (b : Bool) (q : Nat) : (s.setKey k b).readMem q = s.readMem q := rfl
@[simp] theorem setKey_pixel (k : Key) (b : Bool) (p : Fin 32) (q : Fin 64) : (s.setKey k b).pixel p q = s.pixel p q := rfl

/-! ### Views -/

/-- A register reads back what was written to it, and a write leaves every other register alone. -/
@[simp] theorem setV_getV (r q : Reg) (b : Byte) : (s.setV r b).getV q = if q = r then b else s.getV q := by
  by_cases h : q = r
  · subst h; simp [setV, getV]
  · have : r.val ≠ q.val := fun e => h (Fin.ext e.symm)
    simp [setV, getV, h, Vector.getElem_set_ne, this]

/-- A block load replaces V0..Vx. -/
@[simp] theorem setRegsTo_getV (x q : Reg) (f : Nat → Byte) :
    (s.setRegsTo x f).getV q = if q.val ≤ x.val then f q.val else s.getV q := by
  simp [setRegsTo, getV]

/-- A pixel of a replaced display. -/
@[simp] theorem setDisp_pixel (d : Display) (p : Fin 32) (q : Fin 64) : (s.setDisp d).pixel p q = d[p.val][q.val] := rfl

/-- A byte of a replaced memory. -/
@[simp] theorem storeBytes_readMem (a q : Nat) (bs : List Byte) :
    (s.storeBytes a bs).readMem q = Memory.read (Memory.writeBytes s.mem a bs) q := rfl

end Sys2Proof.Machine.State
end

