-- ==== Sys2Proof/Laws/Ops.lean ====
section
/-! SUPPORT. What each shared operation of the meanings can do, said once. -/

namespace Sys2Proof.Machine

/-! ### Composite updates, as the primitive ones -/

@[simp] theorem State.setFlag_eq (s : State) (f : Bool) : s.setFlag f = s.setV regF (flagByte f) := rfl

@[simp] theorem State.writeWithFlag_eq (s : State) (x : Reg) (b : Byte) (f : Bool) :
    s.writeWithFlag x b f = ((s.setV x b).setV regF (flagByte f)).advance := rfl

@[simp] theorem State.raiseBy_eq (s : State) (i : Instr) (c : FaultCode) (d : FaultDetail) :
    s.raiseBy i c d = s.raise c (some (encode i)) d := rfl

@[simp] theorem State.raiseData_eq (s : State) (i : Instr) :
    s.raiseData i = s.raise .dataOutOfRange (some (encode i)) (.address s.badDataAddress) := rfl

@[simp] theorem State.raiseKey_eq (s : State) (i : Instr) (b : Byte) :
    s.raiseKey i b = s.raise .keyIndexOutOfRange (some (encode i)) (.value b) := rfl

/-! ### Flags -/

@[simp] theorem flagByte_toNat (f : Bool) : (flagByte f).toNat = if f then 1 else 0 := by cases f <;> rfl

@[simp] theorem flagByte_eq_one (f : Bool) : flagByte f = 1#8 ↔ f = true := by cases f <;> decide

@[simp] theorem flagByte_eq_zero (f : Bool) : flagByte f = 0#8 ↔ f = false := by cases f <;> decide

@[simp] theorem flagByte_true : flagByte true = 1#8 := rfl

@[simp] theorem flagByte_false : flagByte false = 0#8 := rfl

theorem lowBit_toNat (a : Byte) : (flagByte (lowBit a)).toNat = a.toNat % 2 := by
  rw [flagByte_toNat, lowBit, BitVec.getLsbD, Nat.testBit_zero]
  simp only [decide_eq_true_eq]
  split <;> omega

theorem highBit_toNat (a : Byte) : (flagByte (highBit a)).toNat = a.toNat / 128 := by
  have := a.isLt
  rw [flagByte_toNat, highBit, BitVec.getLsbD, Nat.testBit_eq_decide_div_mod_eq]
  simp only [decide_eq_true_eq]
  split <;> omega

/-- What FX1E_VF_IN_RANGE can do (44_index_memory.md R202). -/
theorem State.setFlagInRange_cases (s : State) :
    (s.params.fx1eVf = .zero ∧ s.setFlagInRange = s.setV regF 0) ∨
    (s.params.fx1eVf = .keep ∧ s.setFlagInRange = s) ∨
    (s.params.fx1eVf = .draw ∧ s.setFlagInRange = (s.setV regF s.drawn).tookDraw) := by
  unfold State.setFlagInRange
  cases s.params.fx1eVf
  · exact .inl ⟨rfl, rfl⟩
  · exact .inr (.inl ⟨rfl, rfl⟩)
  · exact .inr (.inr ⟨rfl, rfl⟩)

/-! ### Operands -/

theorem addr16_toNat (nnn : BitVec 12) : (addr16 nnn).toNat = nnn.toNat := by
  have := nnn.isLt
  simp [addr16]; omega

theorem byte16_toNat (b : Byte) : (byte16 b).toNat = b.toNat := by
  have := b.isLt
  simp [byte16]; omega

theorem keyByte_toNat (k : Key) : (keyByte k).toNat = k.val := by
  have := k.isLt
  simp [keyByte]; omega

theorem keyOf_eq_some (b : Byte) (k : Key) : keyOf b = some k ↔ b.toNat = k.val := by
  unfold keyOf
  split
  · simp [Fin.ext_iff]
  · have := k.isLt
    simp; omega

theorem keyOf_eq_none (b : Byte) : keyOf b = none ↔ 15 < b.toNat := by
  unfold keyOf
  split <;> simp <;> omega

/-- The accesses of a non-empty range exist when its end is within memory. -/
theorem State.dataInRange_iff (s : State) (len : Nat) : s.dataInRange len = true ↔ len = 0 ∨ s.i.toNat + len ≤ 4096 := by
  simp [State.dataInRange]

theorem State.badDataAddress_eq (s : State) : s.badDataAddress = BitVec.ofNat 16 (max s.i.toNat 0x1000) := by
  unfold State.badDataAddress
  split
  · rw [Nat.max_eq_right (by omega)]; rfl
  · rw [Nat.max_eq_left (by omega)]; simp

/-- I + x + 1 does not wrap when the last access exists. -/
theorem State.indexAfter_toNat (s : State) (x : Reg) (h : s.i.toNat + x.val ≤ 0xFFF) :
    (s.indexAfter x).toNat = s.i.toNat + x.val + 1 := by
  have := x.isLt
  simp [State.indexAfter, BitVec.toNat_add]; omega

theorem State.regsTo_length (s : State) (x : Reg) : (s.regsTo x).length = x.val + 1 := by
  have := x.isLt
  simp [State.regsTo]

theorem State.regsTo_getElem (s : State) (x : Reg) (j : Nat) (h : j < (s.regsTo x).length) :
    (s.regsTo x)[j] = s.v[j]'(by rw [State.regsTo_length] at h; have := x.isLt; omega) := by
  simp [State.regsTo]

/-! ### KEY_SELECT -/

theorem mem_pressedKeys (keys : KeyState) (k : Key) : k ∈ pressedKeys keys ↔ keys[k.val] = true := by
  simp [pressedKeys]

/-- Nothing is selected exactly when no key is pressed. -/
theorem selectKey_eq_none (p : Params) (keys : KeyState) : selectKey p keys = none ↔ ∀ k : Key, keys[k.val] = false := by
  have h : (pressedKeys keys).head? = none ↔ ∀ k : Key, keys[k.val] = false := by
    rw [List.head?_eq_none_iff, List.eq_nil_iff_forall_not_mem]
    simp [mem_pressedKeys]
  rw [← h]
  unfold selectKey
  split
  · simp [*]
  · rename_i l hl
    simp only [hl, reduceCtorEq, iff_false]
    split
    · split <;> simp
    · simp

/-- A selected key is pressed. -/
theorem selectKey_pressed {p : Params} {keys : KeyState} {k : Key} (h : selectKey p keys = some k) : keys[k.val] = true := by
  unfold selectKey at h
  split at h
  · simp at h
  · rename_i l hl
    have hp : keys[l.val] = true := (mem_pressedKeys keys l).1 (List.mem_of_mem_head? (by simp [hl]))
    split at h
    · split at h
      · rename_i hk; simp only [Option.some.injEq] at h; subst h; exact hk
      · simp only [Option.some.injEq] at h; subst h; exact hp
    · simp only [Option.some.injEq] at h; subst h; exact hp

/-- With the empty table the selected key is the lowest pressed one. -/
theorem selectKey_lowest {p : Params} {keys : KeyState} {k : Key} (hp : p.keySelect = []) (h : selectKey p keys = some k)
    {j : Key} (hj : j < k) : keys[j.val] = false := by
  unfold selectKey at h
  split at h
  · simp at h
  · rename_i l hl
    simp only [hp, List.lookup_nil, Option.some.injEq] at h
    subst h
    obtain ⟨as, bs, hs, hall⟩ := List.filter_eq_cons_iff.1 (List.eq_cons_of_mem_head? (by simpa [pressedKeys] using hl))
    have hmem : j ∈ as ++ l :: bs := hs ▸ List.mem_finRange j
    rcases List.mem_append.1 hmem with h1 | h1
    · simpa using hall.1 j h1
    · exfalso
      have hs' : (as ++ l :: bs).Pairwise (· < ·) := hs ▸ List.pairwise_lt_finRange 16
      rcases List.mem_cons.1 h1 with h2 | h2
      · exact absurd (h2 ▸ hj) (lt_irrefl _)
      · exact lt_asymm hj (List.rel_of_pairwise_cons (List.pairwise_append.1 hs').2.1 h2)

end Sys2Proof.Machine
end

