-- ==== Sys2Proof/Laws/Display.lean ====
section
/-! SUPPORT. What the draw engine does, from one pixel up to one row of a sprite. -/

namespace Sys2Proof.Machine

/-- A pixel of a canvas. -/
def Canvas.pixel (a : Canvas) (r : Fin 32) (c : Fin 64) : Bool := a.disp[r.val][c.val]

/-- One flip inverts its pixel and no other. -/
theorem flipPixel_pixel (a : Canvas) (r r' : Fin 32) (c c' : Fin 64) :
    (flipPixel a r c).pixel r' c' = if r' = r ∧ c' = c then !a.pixel r' c' else a.pixel r' c' := by
  unfold flipPixel Canvas.pixel
  by_cases hr : r' = r
  · subst hr
    by_cases hc : c' = c
    · subst hc; simp
    · have : c.val ≠ c'.val := fun e => hc (Fin.ext e.symm)
      simp [hc, Vector.getElem_set_ne, this]
  · have : r.val ≠ r'.val := fun e => hr (Fin.ext e.symm)
    simp [hr, Vector.getElem_set_ne, this]

/-- One flip notes whether its pixel was set. -/
theorem flipPixel_collision (a : Canvas) (r : Fin 32) (c : Fin 64) :
    (flipPixel a r c).collision = (a.collision || a.pixel r c) := rfl

/-- Flip the pixels of a list in order. -/
def flipAll (a : Canvas) (ps : List (Fin 32 × Fin 64)) : Canvas := ps.foldl (fun a p => flipPixel a p.1 p.2) a

/-- Flipping distinct pixels inverts exactly those. -/
theorem flipAll_pixel {ps : List (Fin 32 × Fin 64)} (h : ps.Nodup) (a : Canvas) (r : Fin 32) (c : Fin 64) :
    (flipAll a ps).pixel r c = if (r, c) ∈ ps then !a.pixel r c else a.pixel r c := by
  induction ps generalizing a with
  | nil => rfl
  | cons p ps ih =>
    obtain ⟨hp, hps⟩ := List.nodup_cons.1 h
    show (flipAll (flipPixel a p.1 p.2) ps).pixel r c = _
    rw [ih hps, flipPixel_pixel]
    by_cases e : (r, c) = p
    · subst e; simp [hp]
    · have : ¬ (r = p.1 ∧ c = p.2) := fun h => e (Prod.ext h.1 h.2)
      simp [e, this]

/-- Flipping distinct pixels notes a collision when one of them was set before. -/
theorem flipAll_collision {ps : List (Fin 32 × Fin 64)} (h : ps.Nodup) (a : Canvas) :
    (flipAll a ps).collision = true ↔ a.collision = true ∨ ∃ p ∈ ps, a.pixel p.1 p.2 = true := by
  induction ps generalizing a with
  | nil => simp [flipAll]
  | cons p ps ih =>
    obtain ⟨hp, hps⟩ := List.nodup_cons.1 h
    show (flipAll (flipPixel a p.1 p.2) ps).collision = true ↔ _
    rw [ih hps, flipPixel_collision, Bool.or_eq_true]
    have key : (∃ q ∈ ps, (flipPixel a p.1 p.2).pixel q.1 q.2 = true) ↔ ∃ q ∈ ps, a.pixel q.1 q.2 = true := by
      refine exists_congr fun q => and_congr_right fun hq => ?_
      have : ¬ (q.1 = p.1 ∧ q.2 = p.2) := fun e => hp ((Prod.ext e.1 e.2 : q = p) ▸ hq)
      rw [flipPixel_pixel, if_neg this]
    rw [key]
    simp only [List.mem_cons, exists_eq_or_imp]
    tauto

/-- The pixels under the 1 bits of one row of a sprite. -/
def rowPixels (cx cy row : Nat) (sprite : Byte) : List (Fin 32 × Fin 64) :=
  ((List.range 8).filter (fun col => sprite.getLsbD (7 - col))).map (fun col => (spriteRow cy row, spriteCol cx col))

/-- The pixels under the 1 bits of a sprite. -/
def spritePixels (m : Memory) (base n cx cy : Nat) : List (Fin 32 × Fin 64) :=
  (List.range n).flatMap (fun row => rowPixels cx cy row (Memory.read m (base + row)))

/-- Drawing a row flips its pixels. -/
theorem drawByte_eq (cx cy row : Nat) (sprite : Byte) (a : Canvas) :
    drawByte cx cy row sprite a = flipAll a (rowPixels cx cy row sprite) := by
  unfold drawByte flipAll rowPixels
  rw [List.foldl_map, List.foldl_filter]

/-- Drawing a sprite flips its pixels. -/
theorem drawSprite_eq (m : Memory) (base n cx cy : Nat) (a : Canvas) :
    drawSprite m base n cx cy a = flipAll a (spritePixels m base n cx cy) := by
  unfold drawSprite spritePixels flipAll
  rw [List.foldl_flatMap]
  simp only [drawByte_eq, flipAll]

theorem mem_spritePixels (m : Memory) (base n cx cy : Nat) (r : Fin 32) (c : Fin 64) :
    (r, c) ∈ spritePixels m base n cx cy ↔
      ∃ row col : Nat, row < n ∧ col < 8 ∧ (Memory.read m (base + row)).getLsbD (7 - col) = true ∧
        r.val = (cy + row) % 32 ∧ c.val = (cx + col) % 64 := by
  simp only [spritePixels, rowPixels, List.mem_flatMap, List.mem_range, List.mem_map, List.mem_filter, Prod.mk.injEq,
    spriteRow, spriteCol, Fin.ext_iff]
  constructor
  · rintro ⟨row, h1, col, ⟨h2, h3⟩, h4, h5⟩; exact ⟨row, col, h1, h2, h3, h4.symm, h5.symm⟩
  · rintro ⟨row, col, h1, h2, h3, h4, h5⟩; exact ⟨row, h1, col, ⟨h2, h3⟩, h4.symm, h5.symm⟩

/-- "Each pixel is touched at most once per instruction" (40_display.md R112). -/
theorem spritePixels_nodup (m : Memory) (base n cx cy : Nat) (hn : n ≤ 32) : (spritePixels m base n cx cy).Nodup := by
  unfold spritePixels
  rw [List.nodup_flatMap]
  constructor
  · intro row _
    refine List.Nodup.map_on ?_ (List.nodup_range.filter _)
    intro c hc d hd e
    have hc := List.mem_range.1 (List.mem_filter.1 hc).1
    have hd := List.mem_range.1 (List.mem_filter.1 hd).1
    have e := congrArg (fun p => p.2.val) e
    simp only [spriteCol] at e
    omega
  · refine (List.pairwise_lt_range (n := n)).imp_of_mem ?_
    intro i j hi hj hij
    have hi := List.mem_range.1 hi
    have hj := List.mem_range.1 hj
    rw [Function.onFun, List.disjoint_left]
    intro p hp hq
    simp only [rowPixels, List.mem_map, spriteRow] at hp hq
    obtain ⟨_, _, rfl⟩ := hp
    obtain ⟨_, _, e⟩ := hq
    have e := congrArg (fun p => p.1.val) e
    simp only at e
    omega

end Sys2Proof.Machine
end

