-- ==== Sys2Proof/Laws/PerInstr.lean ====
section
/-! SUPPORT. Per instruction: its encoded word lies in its own row of the opcode map (spec/30_encoding.md R87). The map and the encoder are
written apart, so this compares the two. -/

namespace Sys2Proof.Laws

/-- The bits a row with mask 0xF000 looks at: op4. -/
theorem mask_op4 (w : Word) : w &&& 0xF000#16 = BitVec.ofNat 16 (fieldOp4 w * 4096) := by
  have e : w &&& 0xF000#16 = (w >>> 12) <<< 12 := by
    apply BitVec.eq_of_getLsbD_eq
    intro i hi
    interval_cases i <;> simp
  rw [e, fieldOp4_eq]
  apply BitVec.eq_of_toNat_eq
  have := w.isLt
  simp [Nat.shiftRight_eq_div_pow, Nat.shiftLeft_eq]; omega

/-- The low four bits of a word: n. -/
theorem mask_low4 (w : Word) : w &&& 0x000F#16 = BitVec.ofNat 16 (fieldN w).val := by
  have e : w &&& 0x000F#16 = (w <<< 12) >>> 12 := by
    apply BitVec.eq_of_getLsbD_eq
    intro i hi
    interval_cases i <;> simp
  rw [e, fieldN_val]
  apply BitVec.eq_of_toNat_eq
  have := w.isLt
  simp [Nat.shiftRight_eq_div_pow, Nat.shiftLeft_eq]; omega

/-- The low eight bits of a word: kk. -/
theorem mask_low8 (w : Word) : w &&& 0x00FF#16 = BitVec.ofNat 16 (fieldKk w).toNat := by
  have e : w &&& 0x00FF#16 = (w <<< 8) >>> 8 := by
    apply BitVec.eq_of_getLsbD_eq
    intro i hi
    interval_cases i <;> simp
  rw [e, fieldKk_toNat]
  apply BitVec.eq_of_toNat_eq
  have := w.isLt
  simp [Nat.shiftRight_eq_div_pow, Nat.shiftLeft_eq]; omega

/-- The bits a row with mask 0xF00F looks at: op4 and n. -/
theorem mask_op4_low4 (w : Word) : w &&& 0xF00F#16 = BitVec.ofNat 16 (fieldOp4 w * 4096) ||| BitVec.ofNat 16 (fieldN w).val := by
  rw [← mask_op4, ← mask_low4, ← BitVec.and_or_distrib_left]; rfl

/-- The bits a row with mask 0xF0FF looks at: op4 and kk. -/
theorem mask_op4_low8 (w : Word) : w &&& 0xF0FF#16 = BitVec.ofNat 16 (fieldOp4 w * 4096) ||| BitVec.ofNat 16 (fieldKk w).toNat := by
  rw [← mask_op4, ← mask_low8, ← BitVec.and_or_distrib_left]; rfl

/-- A word in format N lies in the row of its op4. -/
theorem hits_encodeN (name : String) {op : Nat} (nnn : BitVec 12) (h : op < 16) :
    (OpRow.mk name (BitVec.ofNat 16 (op * 4096)) 0xF000#16).hits (encodeN op nnn) = true := by
  rw [OpRow.hits, mask_op4, (fields_encodeN nnn h).1, beq_self_eq_true]

/-- A word in format XK lies in the row of its op4. -/
theorem hits_encodeXK (name : String) {op kk : Nat} (x : Reg) (h : op < 16) (hk : kk < 256) :
    (OpRow.mk name (BitVec.ofNat 16 (op * 4096)) 0xF000#16).hits (encodeXK op x kk) = true := by
  rw [OpRow.hits, mask_op4, (fields_encodeXK x h hk).1, beq_self_eq_true]

/-- A word in format XS lies in the row of its op4 and selector. -/
theorem hits_encodeXS (name : String) {op sel : Nat} (x : Reg) (h : op < 16) (hk : sel < 256) :
    (OpRow.mk name (BitVec.ofNat 16 (op * 4096) ||| BitVec.ofNat 16 sel) 0xF0FF#16).hits (encodeXK op x sel) = true := by
  obtain ⟨h1, _, h3⟩ := fields_encodeXK x h hk
  rw [OpRow.hits, mask_op4_low8, h1, h3, beq_self_eq_true]

/-- A word in format XYN lies in the row of its op4. -/
theorem hits_encodeXYN (name : String) {op n : Nat} (x y : Reg) (h : op < 16) (hn : n < 16) :
    (OpRow.mk name (BitVec.ofNat 16 (op * 4096)) 0xF000#16).hits (encodeXYN op x y n) = true := by
  rw [OpRow.hits, mask_op4, (fields_encodeXYN x y h hn).1, beq_self_eq_true]

/-- A word in format XYS lies in the row of its op4 and selector. -/
theorem hits_encodeXYS (name : String) {op sel : Nat} (x y : Reg) (h : op < 16) (hn : sel < 16) :
    (OpRow.mk name (BitVec.ofNat 16 (op * 4096) ||| BitVec.ofNat 16 sel) 0xF00F#16).hits (encodeXYN op x y sel) = true := by
  obtain ⟨h1, _, _, h4⟩ := fields_encodeXYN x y h hn
  rw [OpRow.hits, mask_op4_low4, h1, h4, beq_self_eq_true]

namespace EncodesInItsRow

/-- The encoded word of the instruction lies in the row of the opcode map that bears its mnemonic. -/
def Statement (i : Instr) : Prop := ∃ row ∈ opcodeMap, row.mnemonic = i.mnemonic ∧ row.hits (encode i) = true

theorem cls : Statement .cls :=
  ⟨⟨"CLS", 0x00E0, 0xFFFF⟩, by simp [opcodeMap, opcodeMapA, opcodeMapB, opcodeMapC], rfl, by decide⟩

theorem ret : Statement .ret :=
  ⟨⟨"RET", 0x00EE, 0xFFFF⟩, by simp [opcodeMap, opcodeMapA, opcodeMapB, opcodeMapC], rfl, by decide⟩

theorem jp (nnn : BitVec 12) : Statement (.jp nnn) :=
  ⟨⟨"JP_addr", 0x1000, 0xF000⟩, by simp [opcodeMap, opcodeMapA, opcodeMapB, opcodeMapC], rfl, hits_encodeN _ nnn (by decide)⟩

theorem call (nnn : BitVec 12) : Statement (.call nnn) :=
  ⟨⟨"CALL_addr", 0x2000, 0xF000⟩, by simp [opcodeMap, opcodeMapA, opcodeMapB, opcodeMapC], rfl, hits_encodeN _ nnn (by decide)⟩

theorem seImm (x : Reg) (kk : Byte) : Statement (.seImm x kk) :=
  ⟨⟨"SE_Vx_byte", 0x3000, 0xF000⟩, by simp [opcodeMap, opcodeMapA, opcodeMapB, opcodeMapC], rfl, hits_encodeXK _ x (by decide) kk.isLt⟩

theorem sneImm (x : Reg) (kk : Byte) : Statement (.sneImm x kk) :=
  ⟨⟨"SNE_Vx_byte", 0x4000, 0xF000⟩, by simp [opcodeMap, opcodeMapA, opcodeMapB, opcodeMapC], rfl, hits_encodeXK _ x (by decide) kk.isLt⟩

theorem seReg (x y : Reg) : Statement (.seReg x y) :=
  ⟨⟨"SE_Vx_Vy", 0x5000, 0xF00F⟩, by simp [opcodeMap, opcodeMapA, opcodeMapB, opcodeMapC], rfl, hits_encodeXYS _ x y (by decide) (by decide)⟩

theorem ldImm (x : Reg) (kk : Byte) : Statement (.ldImm x kk) :=
  ⟨⟨"LD_Vx_byte", 0x6000, 0xF000⟩, by simp [opcodeMap, opcodeMapA, opcodeMapB, opcodeMapC], rfl, hits_encodeXK _ x (by decide) kk.isLt⟩

theorem addImm (x : Reg) (kk : Byte) : Statement (.addImm x kk) :=
  ⟨⟨"ADD_Vx_byte", 0x7000, 0xF000⟩, by simp [opcodeMap, opcodeMapA, opcodeMapB, opcodeMapC], rfl, hits_encodeXK _ x (by decide) kk.isLt⟩

theorem ldReg (x y : Reg) : Statement (.ldReg x y) :=
  ⟨⟨"LD_Vx_Vy", 0x8000, 0xF00F⟩, by simp [opcodeMap, opcodeMapA, opcodeMapB, opcodeMapC], rfl, hits_encodeXYS _ x y (by decide) (by decide)⟩

theorem orReg (x y : Reg) : Statement (.orReg x y) :=
  ⟨⟨"OR_Vx_Vy", 0x8001, 0xF00F⟩, by simp [opcodeMap, opcodeMapA, opcodeMapB, opcodeMapC], rfl, hits_encodeXYS _ x y (by decide) (by decide)⟩

theorem andReg (x y : Reg) : Statement (.andReg x y) :=
  ⟨⟨"AND_Vx_Vy", 0x8002, 0xF00F⟩, by simp [opcodeMap, opcodeMapA, opcodeMapB, opcodeMapC], rfl, hits_encodeXYS _ x y (by decide) (by decide)⟩

theorem xorReg (x y : Reg) : Statement (.xorReg x y) :=
  ⟨⟨"XOR_Vx_Vy", 0x8003, 0xF00F⟩, by simp [opcodeMap, opcodeMapA, opcodeMapB, opcodeMapC], rfl, hits_encodeXYS _ x y (by decide) (by decide)⟩

theorem addReg (x y : Reg) : Statement (.addReg x y) :=
  ⟨⟨"ADD_Vx_Vy", 0x8004, 0xF00F⟩, by simp [opcodeMap, opcodeMapA, opcodeMapB, opcodeMapC], rfl, hits_encodeXYS _ x y (by decide) (by decide)⟩

theorem subReg (x y : Reg) : Statement (.subReg x y) :=
  ⟨⟨"SUB_Vx_Vy", 0x8005, 0xF00F⟩, by simp [opcodeMap, opcodeMapA, opcodeMapB, opcodeMapC], rfl, hits_encodeXYS _ x y (by decide) (by decide)⟩

theorem shr (x y : Reg) : Statement (.shr x y) :=
  ⟨⟨"SHR_Vx", 0x8006, 0xF00F⟩, by simp [opcodeMap, opcodeMapA, opcodeMapB, opcodeMapC], rfl, hits_encodeXYS _ x y (by decide) (by decide)⟩

theorem subn (x y : Reg) : Statement (.subn x y) :=
  ⟨⟨"SUBN_Vx_Vy", 0x8007, 0xF00F⟩, by simp [opcodeMap, opcodeMapA, opcodeMapB, opcodeMapC], rfl, hits_encodeXYS _ x y (by decide) (by decide)⟩

theorem shl (x y : Reg) : Statement (.shl x y) :=
  ⟨⟨"SHL_Vx", 0x800E, 0xF00F⟩, by simp [opcodeMap, opcodeMapA, opcodeMapB, opcodeMapC], rfl, hits_encodeXYS _ x y (by decide) (by decide)⟩

theorem sneReg (x y : Reg) : Statement (.sneReg x y) :=
  ⟨⟨"SNE_Vx_Vy", 0x9000, 0xF00F⟩, by simp [opcodeMap, opcodeMapA, opcodeMapB, opcodeMapC], rfl, hits_encodeXYS _ x y (by decide) (by decide)⟩

theorem ldI (nnn : BitVec 12) : Statement (.ldI nnn) :=
  ⟨⟨"LD_I_addr", 0xA000, 0xF000⟩, by simp [opcodeMap, opcodeMapA, opcodeMapB, opcodeMapC], rfl, hits_encodeN _ nnn (by decide)⟩

theorem jpV0 (nnn : BitVec 12) : Statement (.jpV0 nnn) :=
  ⟨⟨"JP_V0_addr", 0xB000, 0xF000⟩, by simp [opcodeMap, opcodeMapA, opcodeMapB, opcodeMapC], rfl, hits_encodeN _ nnn (by decide)⟩

theorem rnd (x : Reg) (kk : Byte) : Statement (.rnd x kk) :=
  ⟨⟨"RND_Vx_byte", 0xC000, 0xF000⟩, by simp [opcodeMap, opcodeMapA, opcodeMapB, opcodeMapC], rfl, hits_encodeXK _ x (by decide) kk.isLt⟩

theorem drw (x y : Reg) (n : Fin 16) : Statement (.drw x y n) :=
  ⟨⟨"DRW_Vx_Vy_n", 0xD000, 0xF000⟩, by simp [opcodeMap, opcodeMapA, opcodeMapB, opcodeMapC], rfl, hits_encodeXYN _ x y (by decide) n.isLt⟩

theorem skp (x : Reg) : Statement (.skp x) :=
  ⟨⟨"SKP_Vx", 0xE09E, 0xF0FF⟩, by simp [opcodeMap, opcodeMapA, opcodeMapB, opcodeMapC], rfl, hits_encodeXS _ x (by decide) (by decide)⟩

theorem sknp (x : Reg) : Statement (.sknp x) :=
  ⟨⟨"SKNP_Vx", 0xE0A1, 0xF0FF⟩, by simp [opcodeMap, opcodeMapA, opcodeMapB, opcodeMapC], rfl, hits_encodeXS _ x (by decide) (by decide)⟩

theorem ldVxDT (x : Reg) : Statement (.ldVxDT x) :=
  ⟨⟨"LD_Vx_DT", 0xF007, 0xF0FF⟩, by simp [opcodeMap, opcodeMapA, opcodeMapB, opcodeMapC], rfl, hits_encodeXS _ x (by decide) (by decide)⟩

theorem ldVxK (x : Reg) : Statement (.ldVxK x) :=
  ⟨⟨"LD_Vx_K", 0xF00A, 0xF0FF⟩, by simp [opcodeMap, opcodeMapA, opcodeMapB, opcodeMapC], rfl, hits_encodeXS _ x (by decide) (by decide)⟩

theorem ldDTVx (x : Reg) : Statement (.ldDTVx x) :=
  ⟨⟨"LD_DT_Vx", 0xF015, 0xF0FF⟩, by simp [opcodeMap, opcodeMapA, opcodeMapB, opcodeMapC], rfl, hits_encodeXS _ x (by decide) (by decide)⟩

theorem ldSTVx (x : Reg) : Statement (.ldSTVx x) :=
  ⟨⟨"LD_ST_Vx", 0xF018, 0xF0FF⟩, by simp [opcodeMap, opcodeMapA, opcodeMapB, opcodeMapC], rfl, hits_encodeXS _ x (by decide) (by decide)⟩

theorem addI (x : Reg) : Statement (.addI x) :=
  ⟨⟨"ADD_I_Vx", 0xF01E, 0xF0FF⟩, by simp [opcodeMap, opcodeMapA, opcodeMapB, opcodeMapC], rfl, hits_encodeXS _ x (by decide) (by decide)⟩

theorem ldF (x : Reg) : Statement (.ldF x) :=
  ⟨⟨"LD_F_Vx", 0xF029, 0xF0FF⟩, by simp [opcodeMap, opcodeMapA, opcodeMapB, opcodeMapC], rfl, hits_encodeXS _ x (by decide) (by decide)⟩

theorem ldB (x : Reg) : Statement (.ldB x) :=
  ⟨⟨"LD_B_Vx", 0xF033, 0xF0FF⟩, by simp [opcodeMap, opcodeMapA, opcodeMapB, opcodeMapC], rfl, hits_encodeXS _ x (by decide) (by decide)⟩

theorem storeRegs (x : Reg) : Statement (.storeRegs x) :=
  ⟨⟨"LD__I__Vx", 0xF055, 0xF0FF⟩, by simp [opcodeMap, opcodeMapA, opcodeMapB, opcodeMapC], rfl, hits_encodeXS _ x (by decide) (by decide)⟩

theorem loadRegs (x : Reg) : Statement (.loadRegs x) :=
  ⟨⟨"LD_Vx__I", 0xF065, 0xF0FF⟩, by simp [opcodeMap, opcodeMapA, opcodeMapB, opcodeMapC], rfl, hits_encodeXS _ x (by decide) (by decide)⟩

end EncodesInItsRow

end Sys2Proof.Laws
end

