-- ==== Sys2Proof/Laws/Runs.lean ====
section
/-! SUPPORT. Runs of host operations: the inductions over finite and infinite runs (spec/60_exceptions.md R266), packaged once. -/

namespace Sys2Proof.Machine

@[simp] theorem State.runOps_nil (s : State) : s.runOps [] = .next s := rfl

@[simp] theorem State.runAlong_zero (s : State) (ops : Schedule) : s.runAlong ops 0 = .next s := rfl

theorem State.runOps_cons {s t : State} {op : HostOp} (ops : List HostOp) (h : s.apply op = .next t) :
    s.runOps (op :: ops) = t.runOps ops := by
  rw [State.runOps, h]

/-- A finite run, then more operations. -/
theorem State.runOps_append {s t : State} {ops : List HostOp} (more : List HostOp) (h : s.runOps ops = .next t) :
    s.runOps (ops ++ more) = t.runOps more := by
  induction ops generalizing s with
  | nil => cases h; rfl
  | cons op ops ih =>
    rw [List.cons_append, State.runOps]
    rw [State.runOps] at h
    cases e : s.apply op with
    | next u => rw [e] at h; exact ih h
    | fault r => rw [e] at h; cases h
    | refused r => rw [e] at h; cases h

theorem State.runAlong_succ {s t : State} {ops : Schedule} {n : Nat} (h : s.runAlong ops n = .next t) :
    s.runAlong ops (n + 1) = t.apply (ops n) := by
  rw [State.runAlong, h]

/-- The states of an infinite run are what `runAlong` answers. -/
theorem State.IsRun.runAlong_eq {s : State} {ops : Schedule} {trace : Nat → State} (h : s.IsRun ops trace) (n : Nat) :
    s.runAlong ops n = .next (trace n) := by
  induction n with
  | zero => rw [State.runAlong_zero, h.1]
  | succ n ih => rw [State.runAlong_succ ih, h.2 n]

/-- What holds at first and is kept by every operation holds after every finite run. -/
theorem State.runOps_induct {P : State → Prop} (keep : ∀ u op t, P u → State.apply u op = .next t → P t) {s t : State}
    {ops : List HostOp} (first : P s) (h : s.runOps ops = .next t) : P t := by
  induction ops generalizing s with
  | nil => cases h; exact first
  | cons op ops ih =>
    rw [State.runOps] at h
    cases e : s.apply op with
    | next u => rw [e] at h; exact ih (keep s op u first e) h
    | fault r => rw [e] at h; cases h
    | refused r => rw [e] at h; cases h

/-- What holds at first and is kept by every operation holds all along an infinite run. -/
theorem State.IsRun.induct {P : State → Prop} (keep : ∀ u op t, P u → State.apply u op = .next t → P t) {s : State}
    {ops : Schedule} {trace : Nat → State} (first : P s) (h : s.IsRun ops trace) (n : Nat) : P (trace n) := by
  induction n with
  | zero => rw [h.1]; exact first
  | succ n ih => exact keep _ _ _ ih (h.2 n)

end Sys2Proof.Machine
end

