-- ==== Sys2Proof/Laws/Step.lean ====
section
/-! SUPPORT. What a step can do, said once: one lemma per way through it, and the inversion of them all. -/

namespace Sys2Proof.Machine

/-- A big-endian pair of bytes as a number (20_memory.md R54). -/
theorem wordOfBytes_toNat (hi lo : Byte) : (wordOfBytes hi lo).toNat = hi.toNat * 256 + lo.toNat := by
  have := lo.isLt
  rw [wordOfBytes, BitVec.toNat_append, Nat.shiftLeft_eq, Nat.mul_comm, ← Nat.two_pow_add_eq_or_of_lt this]

theorem State.canFetch_iff (s : State) : s.canFetch = true ↔ s.pc.toNat + 1 ≤ 0xFFF := by simp [State.canFetch]

/-- (1) of R249: a latched fault holds. -/
theorem step_of_fault {s : State} {r : FaultReport} (h : s.fault = some r) : step s = .next s := by
  simp [step, State.action, h]

/-- (2) of R249: a waiting engine repeats the key test. -/
theorem step_of_wait {s : State} {x : Reg} (h : s.fault = none) (hm : s.mode = .awaitKey x) : step s = .next (s.awaitStep x) := by
  simp [step, State.action, h, hm]

/-- (3) of R249: the fetch check. -/
theorem step_of_no_fetch {s : State} (h : s.Running) (hf : s.canFetch = false) :
    step s = .next (s.raise .fetchOutOfRange none .noDetail) := by
  simp [step, State.action, State.fetchDecode, h.1, h.2, hf]

/-- (4) of R249: decode. -/
theorem step_of_undefined {s : State} (h : s.Running) (hf : s.canFetch = true) (hd : decode (s.wordAt s.pc.toNat) = none) :
    step s = .next (s.raise .undefinedOpcode (some (s.wordAt s.pc.toNat)) .noDetail) := by
  simp [step, State.action, State.fetchDecode, h.1, h.2, hf, hd]

/-- (5) of R249: the instruction. -/
theorem step_of_decode {s : State} {i : Instr} (h : s.Running) (hf : s.canFetch = true)
    (hd : decode (s.wordAt s.pc.toNat) = some i) : step s = exec i s := by
  simp [step, State.action, State.fetchDecode, h.1, h.2, hf, hd]

/-- Everything a step that answers `t` can have done. -/
theorem step_cases {s t : State} (h : step s = .next t) :
    (∃ r, s.fault = some r ∧ t = s) ∨
    (∃ x, s.fault = none ∧ s.mode = .awaitKey x ∧ t = s.awaitStep x) ∨
    (s.Running ∧ s.canFetch = false ∧ t = s.raise .fetchOutOfRange none .noDetail) ∨
    (s.Running ∧ s.canFetch = true ∧ decode (s.wordAt s.pc.toNat) = none ∧
      t = s.raise .undefinedOpcode (some (s.wordAt s.pc.toNat)) .noDetail) ∨
    (∃ i, s.Running ∧ s.canFetch = true ∧ decode (s.wordAt s.pc.toNat) = some i ∧ exec i s = .next t) := by
  cases hf : s.fault with
  | some r =>
    rw [step_of_fault hf] at h
    exact .inl ⟨r, rfl, (Host.Outcome.next.inj h).symm⟩
  | none =>
    cases hm : s.mode with
    | awaitKey x =>
      rw [step_of_wait hf hm] at h
      exact .inr (.inl ⟨x, rfl, rfl, (Host.Outcome.next.inj h).symm⟩)
    | ready =>
      have hr : s.Running := ⟨hf, hm⟩
      cases hc : s.canFetch with
      | false =>
        rw [step_of_no_fetch hr hc] at h
        exact .inr (.inr (.inl ⟨hr, rfl, (Host.Outcome.next.inj h).symm⟩))
      | true =>
        cases hd : decode (s.wordAt s.pc.toNat) with
        | none =>
          rw [step_of_undefined hr hc hd] at h
          exact .inr (.inr (.inr (.inl ⟨hr, rfl, rfl, (Host.Outcome.next.inj h).symm⟩)))
        | some i =>
          rw [step_of_decode hr hc hd] at h
          exact .inr (.inr (.inr (.inr ⟨i, hr, rfl, rfl, h⟩)))

/-- What a waiting step can have done (45_timers_input.md R222). -/
theorem State.awaitStep_cases (s : State) (x : Reg) :
    (∃ k, selectKey s.params s.keys = some k ∧ s.awaitStep x = ((s.setV x (keyByte k)).setMode .ready).advance) ∨
    (selectKey s.params s.keys = none ∧ s.awaitStep x = s) := by
  unfold State.awaitStep
  split
  · rename_i k hk; exact .inl ⟨k, hk, rfl⟩
  · rename_i hk; exact .inr ⟨hk, rfl⟩

end Sys2Proof.Machine
end

