-- ==== Sys2Proof/Tests/Slice0.lean ====
section
/-! SUPPORT. Tests, each with its source, and a witness for every statement that has hypotheses. Expected results are those of
spec/95_test_vectors.md and of the examples in the rules. -/

namespace Sys2Proof.Tests

open Sys2Proof.Machine

/-- Read something off the state that an outcome answers. -/
def after {α : Type} (o : Host.Outcome State Fault Refusal) (f : State → α) : Option α :=
  match o with
  | .next t => some (f t)
  | _ => none

/-- The construction state with a word at PC = 0x200. -/
def at200 (w : Nat) : State := State.reset.withFetchWord 16 w

/-- Registers set one after the other. -/
def withV (s : State) (vs : List (Reg × Byte)) : State := vs.foldl (fun s p => s.setV p.1 p.2) s

/-- The set pixels of a row, as column numbers. -/
def litColumns (r : Fin 32) (t : State) : List (Fin 64) := (List.finRange 64).filter (fun c => t.pixel r c)

/-- The latched report has this code number, PC, word and detail (60_exceptions.md R241). -/
def reports (t : State) (code : Nat) (pc : Word) (word : Option Word) (detail : FaultDetail) : Bool :=
  match t.fault with
  | some r => r.code.number == code && r.pc == pc && r.word == word && r.detail == detail
  | none => false

/-! ### Well-formedness: an illegal word of each group of 30_encoding.md R88 is refused -/

theorem test_wellformed_accepts : wordWellFormed 0x00E0 = true ∧ wordWellFormed 0x8AB6 = true ∧ wordWellFormed 0xF165 = true := by
  decide
theorem test_wellformed_refuses_op0 : wordWellFormed 0x0000 = false ∧ wordWellFormed 0x00E1 = false := by decide
theorem test_wellformed_refuses_op5 : wordWellFormed 0x5121 = false := by decide
theorem test_wellformed_refuses_op8 : wordWellFormed 0x8008 = false ∧ wordWellFormed 0x800F = false := by decide
theorem test_wellformed_refuses_op9 : wordWellFormed 0x9001 = false := by decide
theorem test_wellformed_refuses_opE : wordWellFormed 0xE19F = false := by decide
theorem test_wellformed_refuses_opF : wordWellFormed 0xF000 = false ∧ wordWellFormed 0xFFFF = false := by decide

/-! ### Decoding: one word of every row of 30_encoding.md R87, bit by bit from its encoding column -/

theorem test_decode_system : decode 0b0000000011100000#16 = some .cls ∧ decode 0b0000000011101110#16 = some .ret := by decide
theorem test_decode_flow :
    decode 0b0001001000110100#16 = some (.jp 0x234) ∧ decode 0b0010001000010000#16 = some (.call 0x210) ∧
    decode 0b1011001100000000#16 = some (.jpV0 0x300) := by decide
theorem test_decode_skips :
    decode 0b0011001100010010#16 = some (.seImm 3 0x12) ∧ decode 0b0100001100010010#16 = some (.sneImm 3 0x12) ∧
    decode 0b0101000100100000#16 = some (.seReg 1 2) ∧ decode 0b1001000100100000#16 = some (.sneReg 1 2) ∧
    decode 0b1110010110011110#16 = some (.skp 5) ∧ decode 0b1110010110100001#16 = some (.sknp 5) := by decide
theorem test_decode_immediates :
    decode 0b0110101001000010#16 = some (.ldImm 0xA 0x42) ∧ decode 0b0111000000000010#16 = some (.addImm 0 0x02) ∧
    decode 0b1100001100001111#16 = some (.rnd 3 0x0F) := by decide
theorem test_decode_alu :
    decode 0b1000000100100000#16 = some (.ldReg 1 2) ∧ decode 0b1000000100100001#16 = some (.orReg 1 2) ∧
    decode 0b1000000100100010#16 = some (.andReg 1 2) ∧ decode 0b1000000100100011#16 = some (.xorReg 1 2) ∧
    decode 0b1000000100100100#16 = some (.addReg 1 2) ∧ decode 0b1000000100100101#16 = some (.subReg 1 2) ∧
    decode 0b1000010001110110#16 = some (.shr 4 7) ∧ decode 0b1000000100100111#16 = some (.subn 1 2) ∧
    decode 0b1000010011111110#16 = some (.shl 4 0xF) := by decide
theorem test_decode_index :
    decode 0b1010001100000000#16 = some (.ldI 0x300) ∧ decode 0b1111001000011110#16 = some (.addI 2) ∧
    decode 0b1111101000101001#16 = some (.ldF 0xA) ∧ decode 0b1111010100110011#16 = some (.ldB 5) ∧
    decode 0b1111001101010101#16 = some (.storeRegs 3) ∧ decode 0b1111001001100101#16 = some (.loadRegs 2) := by decide
theorem test_decode_display : decode 0b1101000100100101#16 = some (.drw 1 2 5) := by decide
theorem test_decode_timers :
    decode 0b1111001000000111#16 = some (.ldVxDT 2) ∧ decode 0b1111000100001010#16 = some (.ldVxK 1) ∧
    decode 0b1111000100010101#16 = some (.ldDTVx 1) ∧ decode 0b1111000100011000#16 = some (.ldSTVx 1) := by decide
/-- V4 to V13. -/
theorem test_decode_refuses : [0x0000#16, 0x0123#16, 0x00E1#16, 0x5121#16, 0x8008#16, 0x800F#16, 0x9001#16, 0xE19F#16, 0xF000#16,
    0xF156#16].all (fun w => decode w == none) = true := by decide
theorem test_decode_table_word : decodeTableWord 16 0xF365 = some (.loadRegs 3) ∧ decodeTableWord 16 0x00E1 = none := by decide
/-- The bytes of a word in memory order (20_memory.md R54). -/
theorem test_decode_bytes : decodeBytes [0x12, 0x34, 0x56] = .ok (.jp 0x234, [0x56]) ∧ decodeBytes [0x12] = .error .truncated := by
  constructor <;> rfl

/-! ### Fetch (95_test_vectors.md 2.1) -/

/-- V1: the last fetchable address. -/
theorem test_fetch_top : after (step ((State.reset.storeBytes 0xFFE [0x12, 0x00]).jump 0xFFE))
    (fun t => t.pc) = some 0x200 := by decide
/-- V2. -/
theorem test_fetch_out_of_range :
    after (step (State.reset.jump 0xFFF)) (fun t => (reports t 1 0xFFF none .noDetail, t.pc)) = some (true, 0xFFF) := by decide
/-- V3: an odd PC. -/
theorem test_fetch_odd :
    after (step ((State.reset.storeBytes 0x201 [0x60, 0x7F]).jump 0x201)) (fun t => (t.getV 0, t.pc)) = some (0x7F, 0x203) := by decide
/-- F3: the default glyph 0 at address 0 is no instruction. -/
theorem test_fetch_glyph : after (step (State.reset.jump 0)) (fun t => reports t 2 0 (some 0xF090) .noDetail) = some true := by decide
/-- P6: the first step of an empty image. -/
theorem test_empty_image : after (step State.reset) (fun t => reports t 2 0x200 (some 0) .noDetail) = some true := by decide

/-! ### Display (W3, W4) -/

theorem test_cls : after (step (((at200 0x00E0).setDisp
    (flipPixel (flipPixel ⟨blankDisplay, false⟩ 31 63) 10 20).disp).setV 15 7))
    (fun t => (litColumns 31 t, litColumns 10 t, t.getV 15, t.pc)) = some ([], [], 7, 0x202) := by decide
/-- W4. -/
theorem test_drw_wraps : after (step (withV (((at200 0xD011).storeBytes 0x300 [0xFF]).setI 0x300) [(0, 0x3C)]))
    (fun t => (litColumns 0 t, t.getV 15, t.pc)) = some ([0, 1, 2, 3, 60, 61, 62, 63], 0, 0x202) := by decide
/-- W3: the first draw of the worked example turns (5,10) off and (5,17) on. -/
theorem test_drw_collides : after (step (withV ((((at200 0xD011).storeBytes 0x300 [0x81]).setI 0x300).setDisp
    (flipPixel ⟨blankDisplay, false⟩ 5 10).disp) [(0, 0x0A), (1, 0x05)])) (fun t => (litColumns 5 t, t.getV 15)) = some ([17], 1) := by
  decide

/-! ### Control transfer (W5, F1 to F10) -/

theorem test_jp : after (step (at200 0x1201)) (fun t => t.pc) = some 0x201 := by decide
/-- W5, the CALL. -/
theorem test_call : after (step (at200 0x2300)) (fun t => (t.stack[0], t.sp, t.pc)) = some (0x202, 1, 0x300) := by decide
/-- F7. -/
theorem test_call_overflow : after (step { at200 0x2300 with sp := 16 })
    (fun t => (reports t 3 0x200 (some 0x2300) .noDetail, t.sp, t.pc))
    = some (true, 16, 0x200) := by decide
/-- F5. -/
theorem test_ret : after (step { at200 0x00EE with sp := 3, stack := State.reset.stack.set 2 0x2A4 }) (fun t => (t.sp, t.pc))
    = some (2, 0x2A4) := by decide
/-- F4. -/
theorem test_ret_underflow : after (step (at200 0x00EE)) (fun t => (reports t 4 0x200 (some 0x00EE) .noDetail, t.sp, t.pc))
    = some (true, 0, 0x200) := by decide
/-- F8. -/
theorem test_jpV0_top : after (step (withV (at200 0xBFFF) [(0, 0xFF)])) (fun t => t.pc) = some 0x10FE := by decide
/-- F10: V0, not the register the bits 11..8 name. -/
theorem test_jpV0_reads_v0 : after (step (withV (at200 0xB5FE) [(0, 1), (5, 0x80)])) (fun t => t.pc) = some 0x5FF := by decide

/-! ### Skips (S1 to S17) -/

theorem test_seImm : after (step (withV (at200 0x3312) [(3, 0x12)])) (fun t => t.pc) = some 0x204 := by decide
theorem test_seImm_not : after (step (withV (at200 0x3313) [(3, 0x12)])) (fun t => t.pc) = some 0x202 := by decide
theorem test_sneImm : after (step (withV (at200 0x4312) [(3, 0x12)])) (fun t => t.pc) = some 0x202 := by decide
theorem test_sneImm_skips : after (step (withV (at200 0x4300) [(3, 0x12)])) (fun t => t.pc) = some 0x204 := by decide
theorem test_seReg : after (step (withV (at200 0x5120) [(1, 9), (2, 9)])) (fun t => t.pc) = some 0x204 := by decide
theorem test_seReg_not : after (step (withV (at200 0x5120) [(1, 9), (2, 8)])) (fun t => t.pc) = some 0x202 := by decide
theorem test_sneReg : after (step (withV (at200 0x9120) [(1, 9), (2, 8)])) (fun t => t.pc) = some 0x204 := by decide
theorem test_sneReg_same : after (step (at200 0x9110)) (fun t => t.pc) = some 0x202 := by decide
theorem test_skp : after (step ((withV (at200 0xE59E) [(5, 0x0A)]).setKey 0xA true)) (fun t => t.pc) = some 0x204 := by decide
theorem test_skp_out_of_range : after (step (withV (at200 0xE59E) [(5, 0x10)]))
    (fun t => (reports t 6 0x200 (some 0xE59E) (.value 0x10), t.pc))
    = some (true, 0x200) := by decide
theorem test_sknp : after (step (withV (at200 0xE5A1) [(5, 0x0A)])) (fun t => t.pc) = some 0x204 := by decide
theorem test_sknp_out_of_range : after (step (withV (at200 0xE5A1) [(5, 0xFF)]))
    (fun t => reports t 6 0x200 (some 0xE5A1) (.value 0xFF)) = some true := by decide

/-! ### Arithmetic (W1, W6, A1 to A29) -/

theorem test_ldImm : after (step (at200 0x6A42)) (fun t => t.getV 0xA) = some 0x42 := by decide
/-- W1. -/
theorem test_addImm : after (step (withV (at200 0x7364) [(3, 0xC8), (15, 0x5A)])) (fun t => (t.getV 3, t.getV 15, t.pc))
    = some (0x2C, 0x5A, 0x202) := by decide
theorem test_ldReg : after (step (withV (at200 0x8120) [(2, 0x33)])) (fun t => t.getV 1) = some 0x33 := by decide
theorem test_orReg : after (step (withV (at200 0x8121) [(1, 0xF0), (2, 0x0F), (15, 7)])) (fun t => (t.getV 1, t.getV 15))
    = some (0xFF, 7) := by decide
theorem test_andReg : after (step (withV (at200 0x8122) [(1, 0xF0), (2, 0x3C), (15, 7)])) (fun t => (t.getV 1, t.getV 15))
    = some (0x30, 7) := by decide
theorem test_xorReg : after (step (withV (at200 0x8123) [(1, 0xF0), (2, 0x3C)])) (fun t => t.getV 1) = some 0xCC := by decide
theorem test_addReg : after (step (withV (at200 0x8124) [(1, 0xFF), (2, 1)]))
    (fun t => (t.getV 1, t.getV 15)) = some (0, 1) := by decide
/-- A13: x = F, the flag is last. -/
theorem test_addReg_flag_last : after (step (withV (at200 0x8F14) [(1, 0xFF)])) (fun t => t.getV 15) = some 0 := by decide
/-- W6. -/
theorem test_subReg : after (step (withV (at200 0x8125) [(1, 3), (2, 5)]))
    (fun t => (t.getV 1, t.getV 15)) = some (0xFE, 0) := by decide
theorem test_subReg_equal : after (step (withV (at200 0x8125) [(1, 7), (2, 7)])) (fun t => (t.getV 1, t.getV 15)) = some (0, 1) := by
  decide
/-- A21: y is ignored. -/
theorem test_shr : after (step (withV (at200 0x8476) [(4, 5), (7, 0x99)])) (fun t => (t.getV 4, t.getV 15)) = some (2, 1) := by decide
theorem test_shr_vf : after (step (withV (at200 0x8FF6) [(15, 3)])) (fun t => t.getV 15) = some 1 := by decide
theorem test_subn : after (step (withV (at200 0x8127) [(1, 3), (2, 5)])) (fun t => (t.getV 1, t.getV 15)) = some (2, 1) := by decide
theorem test_subn_borrow : after (step (withV (at200 0x8127) [(1, 5), (2, 3)])) (fun t => (t.getV 1, t.getV 15)) = some (0xFE, 0) := by
  decide
theorem test_shl : after (step (withV (at200 0x840E) [(4, 0x81)])) (fun t => (t.getV 4, t.getV 15)) = some (2, 1) := by decide
theorem test_shl_vf : after (step (withV (at200 0x8FFE) [(15, 0x80)])) (fun t => t.getV 15) = some 1 := by decide
/-- A28: no draw shows through a mask of 0. -/
theorem test_rnd : after (step (at200 0xC300)) (fun t => t.getV 3) = some 0 := by
  have h : step (at200 0xC300) = execRnd 3 0 (at200 0xC300) := rfl
  simp [h, execRnd, after]

/-! ### Index and memory (W7, W8, M1 to M23) -/

theorem test_ldI : after (step (at200 0xAFFF)) (fun t => t.i) = some 0xFFF := by decide
/-- M4: 0xFFF is in range, with the default FX1E_VF_IN_RANGE. -/
theorem test_addI : after (step (withV ((at200 0xF21E).setI 0xFFE) [(2, 1), (15, 5)]))
    (fun t => (t.i, t.getV 15)) = some (0xFFF, 0) := by
  decide
/-- M7. -/
theorem test_addI_saturates : after (step ((at200 0xF21E).setI 0x1000)) (fun t => (t.i, t.getV 15)) = some (0xFFF, 1) := by decide
theorem test_ldF : after (step (withV (at200 0xFA29) [(10, 0x0A)])) (fun t => t.i) = some 0x032 := by decide
theorem test_ldF_unmasked : after (step (withV (at200 0xF029) [(0, 0xFF)])) (fun t => t.i) = some 0x4FB := by decide
/-- W7. -/
theorem test_ldB : after (step (withV ((at200 0xF533).setI 0x300) [(5, 0xEA)]))
    (fun t => (t.readMem 0x300, t.readMem 0x301, t.readMem 0x302, t.i)) = some (2, 3, 4, 0x300) := by decide
/-- M17. -/
theorem test_ldB_out_of_range : after (step (withV ((at200 0xF533).setI 0xFFE) [(5, 0x64)]))
    (fun t => (reports t 5 0x200 (some 0xF533) (.address 0x1000), t.readMem 0xFFE))
    = some (true, 0) := by decide
/-- M18: the top of memory. -/
theorem test_storeRegs : after (step (withV ((at200 0xF055).setI 0xFFF) [(0, 0xAB)])) (fun t => (t.readMem 0xFFF, t.i))
    = some (0xAB, 0x1000) := by decide
/-- M22: the glyph table is not protected. -/
theorem test_storeRegs_glyph : after (step (withV (at200 0xF055) [(0, 0x55)])) (fun t => (t.readMem 0, t.readMem 1, t.i))
    = some (0x55, 0x90, 1) := by decide
theorem test_loadRegs : after (step (((at200 0xF265).storeBytes 0x300 [2, 3, 4, 5]).setI 0x300))
    (fun t => (t.getV 0, t.getV 1, t.getV 2, t.getV 3, t.i)) = some (2, 3, 4, 0, 0x303) := by decide
/-- M19. -/
theorem test_loadRegs_out_of_range : after (step ((at200 0xF065).setI 0x1000))
    (fun t => (reports t 5 0x200 (some 0xF065) (.address 0x1000), t.i))
    = some (true, 0x1000) := by decide

/-! ### Timers, keys and the host (T1 to T14, H1 to H6) -/

theorem test_ldVxDT : after (step ((at200 0xF207).setDt 0x3C)) (fun t => t.getV 2) = some 0x3C := by decide
theorem test_ldDTVx : after (step (withV (at200 0xF115) [(1, 0x3C)])) (fun t => t.dt) = some 0x3C := by decide
theorem test_ldSTVx : after (step (withV (at200 0xF118) [(1, 5)])) (fun t => (t.st, t.soundActive)) = some (5, true) := by decide
/-- T8. -/
theorem test_key_blocks : after (step (at200 0xF10A)) (fun t => (t.mode, t.pc, t.outcome)) = some (.awaitKey 1, 0x200, .blocked) :=
    by decide
/-- T10, from the state after T8. -/
theorem test_key_completes : after (step (((at200 0xF10A).setMode (.awaitKey 1)).setKey 7 true))
    (fun t => (t.getV 1, t.mode, t.pc, t.outcome)) = some (7, .ready, 0x202, .stepped) := by decide
/-- T11: the lowest key by default. -/
theorem test_key_lowest : after (step (((at200 0xF30A).setKey 5 true).setKey 2 true))
    (fun t => (t.getV 3, t.pc)) = some (2, 0x202) := by
  decide
/-- KEY_SELECT as a table: the row of the pressed set names another of its keys. -/
theorem test_key_select : selectKey ⟨.zero, [((State.reset.keys.set 2 true).set 5 true, 5)]⟩ ((State.reset.keys.set 2 true).set 5 true)
    = some 5 := by decide
/-- T5, T6. -/
theorem test_tick : (((State.reset.setDt 5).setSt 2).tick.dt, (State.reset.setSt 1).tick.dt, (State.reset.setSt 1).tick.st)
    = (4, 0, 0) := by decide
/-- H1, H2: the latch. -/
theorem test_latch : after (step ((State.reset.setDt 3).raise .undefinedOpcode (some 0) .noDetail))
    (fun t => (reports t 2 0x200 (some 0) .noDetail, t.tick.dt, reports t.tick 2 0x200 (some 0) .noDetail)) = some (true, 2, true) := by
  decide
/-- H5. -/
theorem test_oversized (glyphs : Vector Byte 80) :
    State.construct (List.replicate 3585 0) glyphs Params.default = .error .oversizedImage := by
  rw [State.construct, if_pos]
  rw [List.length_replicate]
  decide
set_option maxRecDepth 20000 in
/-- A program image is placed at 0x200 and runs from reset (70_reset_and_hazards.md R281). -/
theorem test_construct : (State.construct [0x6A, 0x42] ⟨defaultGlyphs.toArray, by rfl⟩ Params.default).toOption.bind
    (fun s => after (step s) (fun t => (t.getV 0xA, t.readMem 0, t.readMem 0x4F))) = some (0x42, 0xF0, 0x80) := by rfl

/-! ### Witnesses: the hypotheses of each statement that has some, met together -/

theorem test_witness_drw : (State.reset.setI 0xFFF).i.toNat + (1 : Fin 16).val - 1 ≤ 0xFFF ∧ (0 : Fin 16).val = 0 ∧
    (2 : Fin 16).val > 0 ∧ (State.reset.setI 0xFFF).i.toNat + (2 : Fin 16).val - 1 > 0xFFF := by decide
theorem test_witness_twice : ∃ t u, exec (.drw 0 1 1) ((State.reset.setI 0xFFF).storeBytes 0xFFF [0x80]) = .next t ∧
    (t.i = 0xFFF ∧ t.readMem 0xFFF = 0x80 ∧ t.getV 0 = 0 ∧ t.getV 1 = 0) ∧ exec (.drw 0 1 1) t = .next u :=
  ⟨_, _, rfl, by decide, rfl⟩
theorem test_witness_ret : ({ State.reset with sp := 16 }).sp.val = (15 : Fin 16).val + 1 ∧
    ({ State.reset with sp := 1 }).sp.val = (0 : Fin 16).val + 1 ∧
    State.reset.sp.val = 0 := by decide
theorem test_witness_call : ({ State.reset with sp := 15 }).sp.val = (15 : Fin 16).val ∧
    ({ State.reset with sp := 16 }).sp.val = 16 := by
  decide
theorem test_witness_call_ret : ∃ t u, State.reset.sp.val < 16 ∧ exec (.call 0x300) State.reset = .next t ∧ exec .ret t = .next u :=
  ⟨_, _, by decide, rfl, rfl⟩
theorem test_witness_skp : ((State.reset.setV 5 15).getV 5).toNat = (15 : Key).val ∧ ((State.reset.setV 5 16).getV 5).toNat > 0xF := by
  decide
theorem test_witness_addI : (State.reset.setI 0xFFF).i.toNat + (State.reset.getV 2).toNat ≤ 0xFFF ∧
    (State.reset.setI 0x1000).i.toNat + (State.reset.getV 2).toNat > 0xFFF := by decide
theorem test_witness_addI_params : ({ State.reset with params := ⟨.keep, []⟩ }).params.fx1eVf = .keep ∧
    ({ State.reset with params := ⟨.draw, []⟩ }).params.fx1eVf = .draw ∧ State.reset.params.fx1eVf = .zero := by decide
theorem test_witness_ldB : (State.reset.setI 0xFFD).i.toNat + 2 ≤ 0xFFF ∧ (State.reset.setI 0xFFE).i.toNat + 2 > 0xFFF := by decide
theorem test_witness_block : (State.reset.setI 0xFF0).i.toNat + (15 : Reg).val ≤ 0xFFF ∧
    (State.reset.setI 0xFF1).i.toNat + (15 : Reg).val > 0xFFF := by
  decide
theorem test_witness_round_trip : ∃ t u, (State.reset.setI 0x400).i.toNat + (3 : Reg).val ≤ 0xFFF ∧
    exec (.storeRegs 3) (State.reset.setI 0x400) = .next t ∧ exec (.loadRegs 3) (t.setI 0x400) = .next u :=
  ⟨_, _, by decide, rfl, rfl⟩
theorem test_witness_key : (State.reset.setKey 15 true).KeyDown ∧ ¬ State.reset.KeyDown ∧
    State.reset.params.keySelect = [] := by decide
theorem test_witness_waiting : (((at200 0xF10A).setMode (.awaitKey 1)).setKey 0 true).KeyDown ∧
    ¬ ((at200 0xF10A).setMode (.awaitKey 1)).KeyDown ∧
    ((at200 0xF10A).setMode (.awaitKey 1)).fault = none ∧ ((at200 0xF10A).setMode (.awaitKey 1)).mode = .awaitKey 1 := by decide
theorem test_witness_waiting_inv : ((at200 0xF10A).setMode (.awaitKey 1)).Inv ∧
    ((at200 0xF10A).setMode (.awaitKey 1)).mode = .awaitKey 1 := by
  refine ⟨⟨by decide, by decide, by decide, by decide, fun x h => ?_⟩, rfl⟩
  cases h
  decide
theorem test_witness_key_select : ∃ f : KeyState → Key, ∀ P : KeyState, (∃ k : Key, P[k.val] = true) → P[(f P).val] = true := by
  refine ⟨fun P => (selectKey Params.default P).getD 0, fun P hP => ?_⟩
  have key : ∀ o : Option Key, selectKey Params.default P = o → P[(o.getD 0).val] = true := by
    intro o h
    cases o with
    | none => obtain ⟨k, hk⟩ := hP; rw [selectKey_eq_none] at h; simp [h k] at hk
    | some k => exact selectKey_pressed h
  exact key _ rfl
theorem test_witness_select_some : selectKey Params.default (State.reset.keys.set 3 true) = some 3 := by decide
theorem test_witness_step : (at200 0x00E0).Running ∧ (at200 0x00E0).pc.toNat + 1 ≤ 0xFFF ∧
    decode (BitVec.ofNat 16 (((at200 0x00E0).readMem 0x200).toNat * 256 + ((at200 0x00E0).readMem 0x201).toNat)) = some .cls := by decide
theorem test_witness_fetch : (State.reset.jump 0xFFF).Running ∧ (State.reset.jump 0xFFF).pc.toNat + 1 > 0xFFF ∧
    (State.reset.jump 0xFFE).pc.toNat + 1 ≤ 0xFFF := by decide
theorem test_witness_undefined : State.reset.Running ∧ State.reset.pc.toNat + 1 ≤ 0xFFF ∧
    ∀ row ∈ opcodeMap, BitVec.ofNat 16 ((State.reset.readMem 0x200).toNat * 256 + (State.reset.readMem 0x201).toNat) &&& row.mask ≠ row.pattern := by
  decide
theorem test_witness_fault_entry : ∃ t r, State.reset.fault = none ∧ step State.reset = .next t ∧ t.fault = some r :=
  ⟨_, _, rfl, rfl, rfl⟩
theorem test_witness_latched : ∃ r, (State.reset.raise .stackUnderflow (some 0x00EE) .noDetail).fault = some r := ⟨_, rfl⟩
theorem test_witness_reexecution : ∃ t u r, State.reset.Running ∧ step State.reset = .next t ∧ t.fault = some r ∧
    t.runOps [.tick, .setKey 3 true, .step] = .next u := ⟨_, _, _, by decide, rfl, rfl, rfl⟩
theorem test_witness_exec : ∃ t, State.reset.fault = none ∧ exec (.jp 0x300) State.reset = .next t := ⟨_, rfl, rfl⟩
theorem test_witness_exec_fault : ∃ t, State.reset.fault = none ∧ exec .ret State.reset = .next t ∧ t.fault ≠ none :=
  ⟨_, rfl, rfl, by decide⟩
/-- VF itself is 7 before and after. -/
theorem test_witness_no_vf : ∃ t, exec (.orReg 1 15) (State.reset.setV 15 7) = .next t ∧ t.getV 15 = 7 := ⟨_, rfl, by decide⟩
theorem test_witness_encode_of_decode : decode 0x8AB6 = some (.shr 10 11) := by decide
theorem test_witness_dead_entry : ∃ t, State.reset.sp.val ≤ (0 : Fin 16).val ∧
    exec (.call 0x300) State.reset = .next t := ⟨_, by decide, rfl⟩
theorem test_witness_inv : State.reset.Inv ∧ ∃ t, step State.reset = .next t :=
  ⟨⟨rfl, by decide, by decide, by decide, fun x h => by cases h⟩, _, rfl⟩
theorem test_witness_run : State.reset.Inv ∧ ∃ t, State.reset.runOps [.setKey 0 true, .tick, .read, .step] = .next t :=
  ⟨test_witness_inv.1, _, rfl⟩
/-- Any first state, read forever. -/
theorem test_witness_infinite_run : State.reset.Inv ∧ State.reset.IsRun (fun _ => .read) (fun _ => State.reset) :=
  ⟨test_witness_inv.1, rfl, fun _ => rfl⟩
/-- The states of a wait with key 0 held down: it ends, then the word 0000 at 0x202 latches UndefinedOpcode. -/
def waitTrace : Nat → State
  | 0 => ((at200 0xF10A).setMode (.awaitKey 1)).setKey 0 true
  | 1 => (((at200 0xF10A).setKey 0 true).setV 1 0).advance
  | _ + 2 => ((((at200 0xF10A).setKey 0 true).setV 1 0).advance).raise .undefinedOpcode (some 0) .noDetail
theorem test_witness_fair_wait : (waitTrace 0).fault = none ∧ (waitTrace 0).mode = .awaitKey 1 ∧
    (waitTrace 0).IsRun (fun _ => .step) waitTrace ∧ Schedule.KeepsCalling (fun _ => .step) .step ∧
    (waitTrace 0).keys[(0 : Key).val] = true ∧ ∀ n, 0 ≤ n → (fun _ => HostOp.step : Schedule) n ≠ .setKey 0 false :=
  ⟨rfl, rfl, ⟨rfl, fun n => match n with
    | 0 => rfl
    | 1 => rfl
    | _ + 2 => rfl⟩, fun n => ⟨n, Nat.le_refl n, rfl⟩, rfl, fun _ _ h => by cases h⟩
/-- DT = 1, ticked forever. -/
def delayTrace : Nat → State
  | 0 => State.reset.setDt 1
  | n + 1 => (delayTrace n).tick
theorem test_witness_fair_delay : (State.reset.setDt 1).IsRun (fun _ => .tick) delayTrace ∧ Schedule.KeepsCalling (fun _ => .tick) .tick ∧
    ∀ n, (fun _ => HostOp.tick : Schedule) n = .step → (delayTrace (n + 1)).dt = (delayTrace n).dt :=
  ⟨⟨rfl, fun _ => rfl⟩, fun n => ⟨n, Nat.le_refl n, rfl⟩, fun _ h => by cases h⟩
theorem test_witness_construct : ∃ s, State.construct [0x12, 0x00] ⟨defaultGlyphs.toArray, by rfl⟩ Params.default = .ok s := ⟨_, rfl⟩
theorem test_witness_lengths : ([0x12, 0x00] : List Byte).length ≤ 3584 ∧ (List.replicate 3585 (0 : Byte)).length > 3584 := by
  refine ⟨by decide, ?_⟩
  rw [List.length_replicate]
  decide

end Sys2Proof.Tests
end

section
/-! PROOFS. KEY_SELECT functions as tables (spec/00_scope.md R7, spec/45_timers_input.md R221, notes/assumptions/3.md). -/

namespace Sys2Proof.Machine

/-- A row that names a pressed key decides the selection. -/
theorem selectKey_of_lookup_pressed {p : Params} {keys : KeyState} {k : Key} (hrow : p.keySelect.lookup keys = some k)
    (hk : keys[k.val] = true) : selectKey p keys = some k := by
  unfold selectKey
  split
  · rename_i hnone
    have hmem : k ∈ pressedKeys keys := (mem_pressedKeys keys k).2 hk
    rw [List.head?_eq_none_iff.1 hnone] at hmem
    cases hmem
  · simp [hrow, hk]

/-- A key state is determined by which of the 16 keys are pressed, so there are finitely many. -/
theorem finite_keyState : Finite KeyState := by
  refine Finite.of_injective (fun (keys : KeyState) (k : Key) => keys[k.val]) fun P Q h => ?_
  exact Vector.ext fun i hi => congrFun h ⟨i, hi⟩

/-- The parameters whose table has one row for each of the listed pressed sets, naming the key `f` picks from it. -/
def paramsSelecting (f : KeyState → Key) (sets : List KeyState) : Params := ⟨.zero, sets.map fun P => (P, f P)⟩

/-- On a listed pressed set the table of `f` selects the key of `f`, provided that key is pressed. -/
theorem selectKey_paramsSelecting {f : KeyState → Key} {sets : List KeyState} {P : KeyState} (hP : P ∈ sets)
    (hf : P[(f P).val] = true) : selectKey (paramsSelecting f sets) P = some (f P) :=
  selectKey_of_lookup_pressed (List.lookup_graph f hP) hf

/-- Settles O29: the table with a row for every one of the finitely many key states selects as the given function does. -/
theorem everyKeySelectIsRepresented : Obligations.EveryKeySelectIsRepresented := by
  unfold Obligations.EveryKeySelectIsRepresented
  refine ⟨fun f hf => ?_, fun _ _ _ => selectKey_pressed⟩
  have := finite_keyState
  obtain ⟨sets, -, hsets⟩ := Finite.exists_univ_list KeyState
  exact ⟨paramsSelecting f sets, fun P hP => selectKey_paramsSelecting (hsets P) (hf P hP)⟩

end Sys2Proof.Machine
end

section
/-! PROOFS. What each instruction that can fault, wait or choose does, said once: one case per way through its meaning. The other
instructions complete in every state, so their meaning is its own equation. -/

namespace Sys2Proof.Machine

variable {s t : State} {x y : Reg}

/-- The answer of a guarded meaning: the update when the guard holds, else the fault entry. -/
theorem next_of_guard {c : Bool} {a b : State} (h : (if c then .next a else .next b : Host.Outcome State Fault Refusal) = .next t) :
    (c = true ∧ t = a) ∨ (c = false ∧ t = b) := by
  cases c with
  | true => exact .inl ⟨rfl, (Host.Outcome.next.inj h).symm⟩
  | false => exact .inr ⟨rfl, (Host.Outcome.next.inj h).symm⟩

/-- RET (spec/41_flow.md R131). -/
theorem execRet_cases (h : exec .ret s = .next t) :
    (∃ hs : 0 < s.sp.val, t = (s.drop hs).jump (s.top hs)) ∨
    (s.sp.val = 0 ∧ t = s.raise .stackUnderflow (some (encode .ret)) .noDetail) := by
  by_cases hs : 0 < s.sp.val
  · exact .inl ⟨hs, Host.Outcome.next.inj (h.symm.trans (dif_pos hs))⟩
  · exact .inr ⟨by omega, Host.Outcome.next.inj (h.symm.trans (dif_neg hs))⟩

/-- CALL (spec/41_flow.md R133). -/
theorem execCall_cases {nnn : BitVec 12} (h : exec (.call nnn) s = .next t) :
    (∃ hs : s.sp.val < 16, t = (s.push (s.pc + 2) hs).jump (addr16 nnn)) ∨
    (s.sp.val = 16 ∧ t = s.raise .stackOverflow (some (encode (.call nnn))) .noDetail) := by
  by_cases hs : s.sp.val < 16
  · exact .inl ⟨hs, Host.Outcome.next.inj (h.symm.trans (dif_pos hs))⟩
  · exact .inr ⟨by omega, Host.Outcome.next.inj (h.symm.trans (dif_neg hs))⟩

/-- DRW (spec/40_display.md R112). -/
theorem execDrw_cases {n : Fin 16} (h : exec (.drw x y n) s = .next t) :
    (s.dataInRange n.val = true ∧
      t = ((s.setDisp (s.canvas x y n.val).disp).setV regF (flagByte (s.canvas x y n.val).collision)).advance) ∨
    (s.dataInRange n.val = false ∧
      t = s.raise .dataOutOfRange (some (encode (.drw x y n))) (.address s.badDataAddress)) :=
  next_of_guard h

/-- ADD I,Vx (spec/44_index_memory.md R202). -/
theorem execAddI_cases (h : exec (.addI x) s = .next t) :
    (s.i.toNat + (s.getV x).toNat > 0xFFF ∧ t = ((s.setI 0xFFF).setV regF 1).advance) ∨
    (s.i.toNat + (s.getV x).toNat ≤ 0xFFF ∧ t = ((s.setI (s.i + byte16 (s.getV x))).setFlagInRange).advance) := by
  by_cases hs : s.i.toNat + (s.getV x).toNat > 0xFFF
  · exact .inl ⟨hs, Host.Outcome.next.inj (h.symm.trans (if_pos hs))⟩
  · exact .inr ⟨by omega, Host.Outcome.next.inj (h.symm.trans (if_neg hs))⟩

/-- LD B,Vx (spec/44_index_memory.md R206). -/
theorem execLdB_cases (h : exec (.ldB x) s = .next t) :
    (s.dataInRange 3 = true ∧ t = (s.storeBytes s.i.toNat (decimalDigits (s.getV x))).advance) ∨
    (s.dataInRange 3 = false ∧ t = s.raise .dataOutOfRange (some (encode (.ldB x))) (.address s.badDataAddress)) :=
  next_of_guard h

/-- LD [I],Vx (spec/44_index_memory.md R208). -/
theorem execStoreRegs_cases (h : exec (.storeRegs x) s = .next t) :
    (s.dataInRange (x.val + 1) = true ∧ t = ((s.storeBytes s.i.toNat (s.regsTo x)).setI (s.indexAfter x)).advance) ∨
    (s.dataInRange (x.val + 1) = false ∧
      t = s.raise .dataOutOfRange (some (encode (.storeRegs x))) (.address s.badDataAddress)) :=
  next_of_guard h

/-- LD Vx,[I] (spec/44_index_memory.md R210). -/
theorem execLoadRegs_cases (h : exec (.loadRegs x) s = .next t) :
    (s.dataInRange (x.val + 1) = true ∧
      t = ((s.setRegsTo x (fun j => s.readMem (s.i.toNat + j))).setI (s.indexAfter x)).advance) ∨
    (s.dataInRange (x.val + 1) = false ∧
      t = s.raise .dataOutOfRange (some (encode (.loadRegs x))) (.address s.badDataAddress)) :=
  next_of_guard h

/-- SKP on a value that names a key (spec/42_skips.md R155). -/
theorem execSkp_of_key {k : Key} (hk : keyOf (s.getV x) = some k) : exec (.skp x) s = .next (s.skipIf s.keys[k.val]) := by
  simp [exec, execSkp, hk]

/-- SKP on a value above 0xF (spec/42_skips.md R155). -/
theorem execSkp_of_no_key (hk : keyOf (s.getV x) = none) :
    exec (.skp x) s = .next (s.raise .keyIndexOutOfRange (some (encode (.skp x))) (.value (s.getV x))) := by
  simp [exec, execSkp, hk]

/-- SKNP on a value that names a key (spec/42_skips.md R156). -/
theorem execSknp_of_key {k : Key} (hk : keyOf (s.getV x) = some k) :
    exec (.sknp x) s = .next (s.skipIf (!s.keys[k.val])) := by
  simp [exec, execSknp, hk]

/-- SKNP on a value above 0xF (spec/42_skips.md R156). -/
theorem execSknp_of_no_key (hk : keyOf (s.getV x) = none) :
    exec (.sknp x) s = .next (s.raise .keyIndexOutOfRange (some (encode (.sknp x))) (.value (s.getV x))) := by
  simp [exec, execSknp, hk]

/-- LD Vx,K with a key pressed (spec/45_timers_input.md R221). -/
theorem execLdVxK_of_key {k : Key} (hk : selectKey s.params s.keys = some k) :
    exec (.ldVxK x) s = .next (s.setV x (keyByte k)).advance := by
  simp [exec, execLdVxK, hk]

/-- LD Vx,K with no key pressed: the engine waits (spec/45_timers_input.md R221). -/
theorem execLdVxK_of_no_key (hk : selectKey s.params s.keys = none) :
    exec (.ldVxK x) s = .next (s.setMode (.awaitKey x)) := by
  simp [exec, execLdVxK, hk]

/-- SKP, inverted. -/
theorem execSkp_cases (h : exec (.skp x) s = .next t) :
    (∃ k, keyOf (s.getV x) = some k ∧ t = s.skipIf s.keys[k.val]) ∨
    (keyOf (s.getV x) = none ∧ t = s.raise .keyIndexOutOfRange (some (encode (.skp x))) (.value (s.getV x))) := by
  cases hk : keyOf (s.getV x) with
  | some k => exact .inl ⟨k, rfl, Host.Outcome.next.inj (h.symm.trans (execSkp_of_key hk))⟩
  | none => exact .inr ⟨rfl, Host.Outcome.next.inj (h.symm.trans (execSkp_of_no_key hk))⟩

/-- SKNP, inverted. -/
theorem execSknp_cases (h : exec (.sknp x) s = .next t) :
    (∃ k, keyOf (s.getV x) = some k ∧ t = s.skipIf (!s.keys[k.val])) ∨
    (keyOf (s.getV x) = none ∧ t = s.raise .keyIndexOutOfRange (some (encode (.sknp x))) (.value (s.getV x))) := by
  cases hk : keyOf (s.getV x) with
  | some k => exact .inl ⟨k, rfl, Host.Outcome.next.inj (h.symm.trans (execSknp_of_key hk))⟩
  | none => exact .inr ⟨rfl, Host.Outcome.next.inj (h.symm.trans (execSknp_of_no_key hk))⟩

/-- LD Vx,K, inverted. -/
theorem execLdVxK_cases (h : exec (.ldVxK x) s = .next t) :
    (∃ k, selectKey s.params s.keys = some k ∧ t = (s.setV x (keyByte k)).advance) ∨
    (selectKey s.params s.keys = none ∧ t = s.setMode (.awaitKey x)) := by
  cases hk : selectKey s.params s.keys with
  | some k => exact .inl ⟨k, rfl, Host.Outcome.next.inj (h.symm.trans (execLdVxK_of_key hk))⟩
  | none => exact .inr ⟨rfl, Host.Outcome.next.inj (h.symm.trans (execLdVxK_of_no_key hk))⟩

end Sys2Proof.Machine
end

section
/-! PROOFS. What FX1E_VF_IN_RANGE leaves unchanged: everything but VF and the draws (spec/44_index_memory.md R202). -/

namespace Sys2Proof.Machine.State

variable (s : State)

/-- The flag of an in-range Fx1E is a write to VF, to which a draw may be added. -/
theorem setFlagInRange_eq : ∃ (v : Vector Byte 16) (d : Nat), s.setFlagInRange = { s with v := v, draws := d } := by
  rcases s.setFlagInRange_cases with ⟨-, e⟩ | ⟨-, e⟩ | ⟨-, e⟩ <;> exact ⟨_, _, e⟩

@[simp] theorem setFlagInRange_i : s.setFlagInRange.i = s.i := by obtain ⟨v, d, e⟩ := s.setFlagInRange_eq; rw [e]
@[simp] theorem setFlagInRange_pc : s.setFlagInRange.pc = s.pc := by obtain ⟨v, d, e⟩ := s.setFlagInRange_eq; rw [e]
@[simp] theorem setFlagInRange_sp : s.setFlagInRange.sp = s.sp := by obtain ⟨v, d, e⟩ := s.setFlagInRange_eq; rw [e]
@[simp] theorem setFlagInRange_stack : s.setFlagInRange.stack = s.stack := by obtain ⟨v, d, e⟩ := s.setFlagInRange_eq; rw [e]
@[simp] theorem setFlagInRange_mem : s.setFlagInRange.mem = s.mem := by obtain ⟨v, d, e⟩ := s.setFlagInRange_eq; rw [e]
@[simp] theorem setFlagInRange_disp : s.setFlagInRange.disp = s.disp := by obtain ⟨v, d, e⟩ := s.setFlagInRange_eq; rw [e]
@[simp] theorem setFlagInRange_keys : s.setFlagInRange.keys = s.keys := by obtain ⟨v, d, e⟩ := s.setFlagInRange_eq; rw [e]
@[simp] theorem setFlagInRange_dt : s.setFlagInRange.dt = s.dt := by obtain ⟨v, d, e⟩ := s.setFlagInRange_eq; rw [e]
@[simp] theorem setFlagInRange_st : s.setFlagInRange.st = s.st := by obtain ⟨v, d, e⟩ := s.setFlagInRange_eq; rw [e]
@[simp] theorem setFlagInRange_mode : s.setFlagInRange.mode = s.mode := by obtain ⟨v, d, e⟩ := s.setFlagInRange_eq; rw [e]
@[simp] theorem setFlagInRange_fault : s.setFlagInRange.fault = s.fault := by obtain ⟨v, d, e⟩ := s.setFlagInRange_eq; rw [e]

end Sys2Proof.Machine.State
end

section
/-! PROOFS. The values the instructions write to I, PC and the stack are within the invariant's bounds (spec/10_state.md R25, R28,
spec/41_flow.md R133). -/

namespace Sys2Proof.Machine

variable {s : State}

/-- PC + 2 after a fetch that succeeded is at most 0x1000. -/
theorem State.pc_add_two_le (hf : s.canFetch = true) : (s.pc + 2).toNat ≤ 0x1000 := by
  have := (State.canFetch_iff s).1 hf
  simp [BitVec.toNat_add]; omega

theorem addr16_le (nnn : BitVec 12) : (addr16 nnn).toNat ≤ 0xFFF := by rw [addr16_toNat]; omega

theorem addr16_add_byte16_le (nnn : BitVec 12) (b : Byte) : (addr16 nnn + byte16 b).toNat ≤ 0x10FE := by
  rw [BitVec.toNat_add, addr16_toNat, byte16_toNat]; omega

theorem byte16_mul_five_le (b : Byte) : (byte16 b * 5).toNat ≤ 0x1000 := by
  have := b.isLt
  rw [BitVec.toNat_mul, byte16_toNat]
  exact (Nat.mod_le _ _).trans (by change b.toNat * 5 ≤ _; omega)

theorem State.indexAfter_le {x : Reg} (hr : s.dataInRange (x.val + 1) = true) : (s.indexAfter x).toNat ≤ 0x1000 := by
  have := (State.dataInRange_iff s (x.val + 1)).1 hr
  rw [State.indexAfter_toNat s x (by omega)]; omega

end Sys2Proof.Machine
end

section
/-! PROOFS. The invariant of the machine: a rule per state operation, then per instruction, then the step. -/

namespace Sys2Proof.Machine.State.Inv

variable {s : State}

/-- In mode Ready nothing is asked of the word at PC. -/
theorem of_ready (hm : s.mode = .ready) (memory : Memory.wf s.mem = true) (index : s.i.toNat ≤ 0x1000)
    (counter : s.pc.toNat ≤ 0x10FE) (returns : ∀ j : Fin 16, (s.stack[j.val]).toNat ≤ 0x1000) : s.Inv :=
  ⟨memory, index, counter, returns, fun x hx => by rw [hm] at hx; cases hx⟩

/-! ### Operations that touch nothing the invariant speaks of -/

/-- The invariant speaks of MEM, I, PC, STACK, MODE and FAULT alone. -/
theorem congr {t : State} (h : s.Inv) (hmem : t.mem = s.mem) (hi : t.i = s.i) (hpc : t.pc = s.pc) (hstack : t.stack = s.stack)
    (hmode : t.mode = s.mode) (hfault : t.fault = s.fault) : t.Inv := by
  refine ⟨hmem ▸ h.memory, hi ▸ h.index, hpc ▸ h.counter, hstack ▸ h.returns, ?_⟩
  simpa only [State.canFetch, State.wordAt, State.readMem, hmem, hpc, hmode, hfault] using h.waiting

theorem setV (h : s.Inv) (r : Reg) (b : Byte) : (s.setV r b).Inv := h.congr rfl rfl rfl rfl rfl rfl
theorem setRegsTo (h : s.Inv) (x : Reg) (f : Nat → Byte) : (s.setRegsTo x f).Inv :=
  h.congr (by simp) (by simp) (by simp) (by simp) (by simp) (by simp)
theorem setDt (h : s.Inv) (b : Byte) : (s.setDt b).Inv := h.congr rfl rfl rfl rfl rfl rfl
theorem setSt (h : s.Inv) (b : Byte) : (s.setSt b).Inv := h.congr rfl rfl rfl rfl rfl rfl
theorem setDisp (h : s.Inv) (d : Display) : (s.setDisp d).Inv := h.congr rfl rfl rfl rfl rfl rfl
theorem tookDraw (h : s.Inv) : s.tookDraw.Inv := h.congr rfl rfl rfl rfl rfl rfl
theorem drop (h : s.Inv) (hs : 0 < s.sp.val) : (s.drop hs).Inv := h.congr rfl rfl rfl rfl rfl rfl
theorem setFlagInRange (h : s.Inv) : s.setFlagInRange.Inv :=
  h.congr (by simp) (by simp) (by simp) (by simp) (by simp) (by simp)

/-! ### Operations that touch a component the invariant bounds -/

theorem setI (h : s.Inv) {w : Word} (hw : w.toNat ≤ 0x1000) : (s.setI w).Inv :=
  ⟨h.memory, hw, h.counter, h.returns, h.waiting⟩

theorem push (h : s.Inv) {w : Word} (hw : w.toNat ≤ 0x1000) (hs : s.sp.val < 16) : (s.push w hs).Inv := by
  refine ⟨h.memory, h.index, h.counter, fun j => ?_, h.waiting⟩
  rw [State.push_stack, Vector.getElem_set]
  split
  · exact hw
  · exact h.returns j

theorem jump (h : s.Inv) (hm : s.mode = .ready) {w : Word} (hw : w.toNat ≤ 0x10FE) : (s.jump w).Inv :=
  of_ready hm h.memory h.index hw h.returns

theorem advance (h : s.Inv) (hm : s.mode = .ready) (hf : s.canFetch = true) : s.advance.Inv :=
  h.jump hm ((State.pc_add_two_le hf).trans (by decide))

theorem skipIf (h : s.Inv) (hm : s.mode = .ready) (hf : s.canFetch = true) (c : Bool) : (s.skipIf c).Inv := by
  refine h.jump hm ?_
  have := (State.canFetch_iff s).1 hf
  cases c <;> simp [BitVec.toNat_add] <;> omega

theorem storeBytes (h : s.Inv) (hm : s.mode = .ready) {a : Nat} {bs : List Byte} (ha : a + bs.length ≤ 4096) :
    (s.storeBytes a bs).Inv :=
  of_ready hm (Memory.writeBytes_keeps_wf bs ha h.memory) h.index h.counter h.returns

/-- Fault entry happens in mode Ready only (60_exceptions.md R249). -/
theorem raise (h : s.Inv) (hm : s.mode = .ready) (c : FaultCode) (w : Option Word) (d : FaultDetail) : (s.raise c w d).Inv :=
  of_ready hm h.memory h.index h.counter h.returns

/-- The wait begins in the Fx0A at PC (10_state.md R35). -/
theorem setAwaitKey (h : s.Inv) {x : Reg} (hn : s.fault = none) (hf : s.canFetch = true)
    (hd : decode (s.wordAt s.pc.toNat) = some (.ldVxK x)) : (s.setMode (.awaitKey x)).Inv :=
  ⟨h.memory, h.index, h.counter, h.returns, fun _ hx => by cases hx; exact ⟨hn, hf, hd⟩⟩

theorem setReady (h : s.Inv) : (s.setMode .ready).Inv := of_ready rfl h.memory h.index h.counter h.returns

/-! ### Steps -/

/-- Every instruction of the decoder keeps the invariant. -/
theorem exec {t : State} {i : Instr} (h : s.Inv) (hr : s.Running) (hf : s.canFetch = true)
    (hd : decode (s.wordAt s.pc.toNat) = some i) (he : Machine.exec i s = .next t) : t.Inv := by
  obtain ⟨hn, hm⟩ := hr
  cases i with
  | cls => cases he; exact (h.setDisp _).advance hm hf
  | ret =>
    obtain ⟨hs, rfl⟩ | ⟨-, rfl⟩ := execRet_cases he
    · exact (h.drop hs).jump hm ((h.returns ⟨s.sp.val - 1, by omega⟩).trans (by decide))
    · exact h.raise hm _ _ _
  | jp nnn => cases he; exact h.jump hm ((addr16_le nnn).trans (by decide))
  | call nnn =>
    obtain ⟨hs, rfl⟩ | ⟨-, rfl⟩ := execCall_cases he
    · exact (h.push (State.pc_add_two_le hf) hs).jump hm ((addr16_le nnn).trans (by decide))
    · exact h.raise hm _ _ _
  | jpV0 nnn => cases he; exact h.jump hm (addr16_add_byte16_le nnn _)
  | seImm | sneImm | seReg | sneReg => cases he; exact h.skipIf hm hf _
  | skp =>
    obtain ⟨k, -, rfl⟩ | ⟨-, rfl⟩ := execSkp_cases he
    · exact h.skipIf hm hf _
    · exact h.raise hm _ _ _
  | sknp =>
    obtain ⟨k, -, rfl⟩ | ⟨-, rfl⟩ := execSknp_cases he
    · exact h.skipIf hm hf _
    · exact h.raise hm _ _ _
  | ldImm | addImm | ldReg | orReg | andReg | xorReg | ldVxDT => cases he; exact (h.setV _ _).advance hm hf
  | addReg | subReg | shr | subn | shl => cases he; exact ((h.setV _ _).setV _ _).advance hm hf
  | rnd => cases he; exact (h.setV _ _).tookDraw.advance hm hf
  | drw =>
    obtain ⟨-, rfl⟩ | ⟨-, rfl⟩ := execDrw_cases he
    · exact ((h.setDisp _).setV _ _).advance hm hf
    · exact h.raise hm _ _ _
  | ldVxK x =>
    obtain ⟨k, -, rfl⟩ | ⟨-, rfl⟩ := execLdVxK_cases he
    · exact (h.setV _ _).advance hm hf
    · exact h.setAwaitKey hn hf hd
  | ldDTVx => cases he; exact (h.setDt _).advance hm hf
  | ldSTVx => cases he; exact (h.setSt _).advance hm hf
  | ldI nnn => cases he; exact (h.setI ((addr16_le nnn).trans (by decide))).advance hm hf
  | addI x =>
    obtain ⟨-, rfl⟩ | ⟨hi, rfl⟩ := execAddI_cases he
    · exact ((h.setI (by decide)).setV _ _).advance hm hf
    · have hw : (s.i + byte16 (s.getV x)).toNat ≤ 0x1000 := by
        rw [BitVec.toNat_add, byte16_toNat]; omega
      exact (h.setI hw).setFlagInRange.advance (by simpa using hm) (by simpa [State.canFetch] using hf)
  | ldF => cases he; exact (h.setI (byte16_mul_five_le _)).advance hm hf
  | ldB =>
    obtain ⟨hi, rfl⟩ | ⟨-, rfl⟩ := execLdB_cases he
    · have hi : s.i.toNat + 3 ≤ 4096 := by simpa using (State.dataInRange_iff s 3).1 hi
      exact (h.storeBytes hm hi).advance hm hf
    · exact h.raise hm _ _ _
  | storeRegs x =>
    obtain ⟨hi, rfl⟩ | ⟨-, rfl⟩ := execStoreRegs_cases he
    · have hb : s.i.toNat + (s.regsTo x).length ≤ 4096 := by
        simpa [State.regsTo_length] using (State.dataInRange_iff s (x.val + 1)).1 hi
      exact ((h.storeBytes hm hb).setI (State.indexAfter_le hi)).advance hm hf
    · exact h.raise hm _ _ _
  | loadRegs x =>
    obtain ⟨hi, rfl⟩ | ⟨-, rfl⟩ := execLoadRegs_cases he
    · exact ((h.setRegsTo _ _).setI (State.indexAfter_le hi)).advance (by simpa using hm) (by simpa [State.canFetch] using hf)
    · exact h.raise hm _ _ _

/-- A waiting step keeps the invariant: it completes the Fx0A at PC or changes nothing (45_timers_input.md R222). -/
theorem awaitStep {x : Reg} (h : s.Inv) (hm : s.mode = .awaitKey x) : (s.awaitStep x).Inv := by
  obtain ⟨-, hf, -⟩ := h.waiting x hm
  obtain ⟨k, -, e⟩ | ⟨-, e⟩ := s.awaitStep_cases x <;> rw [e]
  · exact ((h.setV _ _).setReady).advance rfl hf
  · exact h

end Sys2Proof.Machine.State.Inv

namespace Sys2Proof.Machine

/-- Settles O43: by the ways through a step, each of which keeps the invariant. -/
theorem stepKeepsTheInvariant : Obligations.StepKeepsTheInvariant := by
  unfold Obligations.StepKeepsTheInvariant
  intro s t h hstep
  obtain ⟨r, -, rfl⟩ | ⟨x, -, hm, rfl⟩ | ⟨hr, -, rfl⟩ | ⟨hr, -, -, rfl⟩ | ⟨i, hr, hf, hd, he⟩ := step_cases hstep
  · exact h
  · exact h.awaitStep hm
  · exact h.raise hr.2 _ _ _
  · exact h.raise hr.2 _ _ _
  · exact h.exec hr hf hd he

/-- Settles O45: every bounded component is 0 or 0x200 after reset, and the mode is Ready. -/
theorem resetMeetsTheInvariant : Obligations.ResetMeetsTheInvariant := by
  unfold Obligations.ResetMeetsTheInvariant
  exact State.Inv.of_ready rfl Memory.reset_wf (by decide) (by decide) (by decide)

end Sys2Proof.Machine
end

section
/-! PROOFS. What an instruction leaves unchanged, and the new PC (spec/10_state.md R24 to R33, R37). -/

namespace Sys2Proof.Machine

variable {s t : State}

/-! ### PC (10_state.md R27) -/

/-- KEY[b] of a register value that names a key. -/
theorem getD_keys_of_keyOf {keys : KeyState} {b : Byte} {k : Key} (hk : keyOf b = some k) :
    keys.toList.getD b.toNat false = keys[k.val] := by
  rw [(keyOf_eq_some b k).1 hk]
  simp [List.getD]

/-- RET's target by its index in the stack. -/
theorem State.top_eq_getD (hs : 0 < s.sp.val) : s.top hs = s.stack.toList.getD (s.sp.val - 1) 0 := by
  have : s.sp.val - 1 < 16 := by omega
  simp [State.top, List.getD, this]

/-- A skip on a condition `p` adds 4 to PC when `p` holds and 2 otherwise. -/
theorem State.skipIf_pc_of_iff {c : Bool} {p : Prop} [Decidable p] (h : c = true ↔ p) :
    (s.skipIf c).pc = if p then s.pc + 4 else s.pc + 2 := by
  simp only [State.skipIf_pc, h]

/-- A key is selected exactly when one is pressed. -/
theorem mem_keys_iff_selectKey (p : Params) (keys : KeyState) : true ∈ keys.toList ↔ selectKey p keys ≠ none := by
  rw [ne_eq, selectKey_eq_none, not_forall]
  simp [List.mem_iff_getElem, Fin.exists_iff]

theorem addr16_eq_ofNat (nnn : BitVec 12) : addr16 nnn = BitVec.ofNat 16 nnn.toNat := (BitVec.ofNat_toNat _ _).symm

theorem addr16_add_byte16 (nnn : BitVec 12) (b : Byte) : addr16 nnn + byte16 b = BitVec.ofNat 16 (nnn.toNat + b.toNat) := by
  rw [BitVec.ofNat_add, BitVec.ofNat_toNat, BitVec.ofNat_toNat]; rfl

/-- A state by the class table of R27: with no fault latched PC is as the table says, with one it is as it was. -/
def PcByClass (i : Instr) (s t : State) : Prop :=
  (t.fault = none → t.pc = Claims.pcAfter s i) ∧ (t.fault ≠ none → t.pc = s.pc)

theorem PcByClass.of_completed {i : Instr} (hf : t.fault = none) (hpc : t.pc = Claims.pcAfter s i) : PcByClass i s t :=
  ⟨fun _ => hpc, fun h => absurd hf h⟩

theorem PcByClass.of_raise (i : Instr) (c : FaultCode) (w : Option Word) (d : FaultDetail) : PcByClass i s (s.raise c w d) :=
  ⟨fun h => by simp at h, fun _ => rfl⟩

/-- Settles O38: by the ways through each instruction. -/
theorem pcFollowsTheClassTable : Obligations.PcFollowsTheClassTable := by
  unfold Obligations.PcFollowsTheClassTable
  intro i s t hf h
  change PcByClass i s t
  cases i with
  | cls | ldImm | addImm | ldReg | orReg | andReg | xorReg | addReg | subReg | shr | subn | shl | ldI | rnd | ldVxDT | ldDTVx
  | ldSTVx | ldF => cases h; exact .of_completed hf rfl
  | seImm | seReg => cases h; exact .of_completed hf (State.skipIf_pc_of_iff beq_iff_eq)
  | sneImm | sneReg => cases h; exact .of_completed hf (State.skipIf_pc_of_iff bne_iff_ne)
  | skp =>
    obtain ⟨k, hk, rfl⟩ | ⟨-, rfl⟩ := execSkp_cases h
    · exact .of_completed hf (State.skipIf_pc_of_iff (by rw [getD_keys_of_keyOf hk]))
    · exact .of_raise ..
  | sknp =>
    obtain ⟨k, hk, rfl⟩ | ⟨-, rfl⟩ := execSknp_cases h
    · exact .of_completed hf (State.skipIf_pc_of_iff (by rw [getD_keys_of_keyOf hk, Bool.not_eq_true']))
    · exact .of_raise ..
  | jp nnn => cases h; exact .of_completed hf (addr16_eq_ofNat nnn)
  | jpV0 nnn => cases h; exact .of_completed hf (addr16_add_byte16 nnn _)
  | call nnn =>
    obtain ⟨hs, rfl⟩ | ⟨-, rfl⟩ := execCall_cases h
    · exact .of_completed hf (addr16_eq_ofNat nnn)
    · exact .of_raise ..
  | ret =>
    obtain ⟨hs, rfl⟩ | ⟨-, rfl⟩ := execRet_cases h
    · exact .of_completed hf (State.top_eq_getD hs)
    · exact .of_raise ..
  | ldVxK =>
    obtain ⟨k, hk, rfl⟩ | ⟨hk, rfl⟩ := execLdVxK_cases h
    · exact .of_completed hf (if_pos ((mem_keys_iff_selectKey s.params s.keys).2 (by simp [hk]))).symm
    · exact .of_completed hf (if_neg (mt (mem_keys_iff_selectKey s.params s.keys).1 (by simp [hk]))).symm
  | addI =>
    obtain ⟨-, rfl⟩ | ⟨-, rfl⟩ := execAddI_cases h
    · exact .of_completed hf rfl
    · exact .of_completed (by simpa using hf) (by change _ = s.pc + 2; simp)
  | drw =>
    obtain ⟨-, rfl⟩ | ⟨-, rfl⟩ := execDrw_cases h
    · exact .of_completed hf rfl
    · exact .of_raise ..
  | ldB =>
    obtain ⟨-, rfl⟩ | ⟨-, rfl⟩ := execLdB_cases h
    · exact .of_completed hf rfl
    · exact .of_raise ..
  | storeRegs =>
    obtain ⟨-, rfl⟩ | ⟨-, rfl⟩ := execStoreRegs_cases h
    · exact .of_completed hf rfl
    · exact .of_raise ..
  | loadRegs =>
    obtain ⟨-, rfl⟩ | ⟨-, rfl⟩ := execLoadRegs_cases h
    · exact .of_completed (by simpa using hf) (by change _ = s.pc + 2; simp)
    · exact .of_raise ..

/-! ### VF (10_state.md R24) -/

/-- Settles O39: by the ways through each instruction outside the list. -/
theorem onlyTheListedInstructionsWriteVF : Obligations.OnlyTheListedInstructionsWriteVF := by
  unfold Obligations.OnlyTheListedInstructionsWriteVF
  intro i s t h hw
  cases i with
  | addReg | subReg | shr | subn | shl | drw | addI => cases hw
  | ldImm x | addImm x | ldReg x | orReg x | andReg x | xorReg x | rnd x | ldVxDT x =>
    have hx : 15 ≠ x := (ne_of_beq_false hw).symm
    cases h
    simp [hx]
  | ldVxK x =>
    have hx : 15 ≠ x := (ne_of_beq_false hw).symm
    obtain ⟨k, -, rfl⟩ | ⟨-, rfl⟩ := execLdVxK_cases h
    · simp [hx]
    · rfl
  | loadRegs x =>
    have hx : x.val ≠ 15 := Fin.val_ne_of_ne (ne_of_beq_false hw)
    have hx : ¬ 15 ≤ x.val := by omega
    obtain ⟨-, rfl⟩ | ⟨-, rfl⟩ := execLoadRegs_cases h
    · simp [hx]
    · rfl
  | cls | jp | jpV0 | seImm | sneImm | seReg | sneReg | ldDTVx | ldSTVx | ldI | ldF => cases h; rfl
  | ret => obtain ⟨hs, rfl⟩ | ⟨-, rfl⟩ := execRet_cases h <;> rfl
  | call => obtain ⟨hs, rfl⟩ | ⟨-, rfl⟩ := execCall_cases h <;> rfl
  | skp => obtain ⟨k, -, rfl⟩ | ⟨-, rfl⟩ := execSkp_cases h <;> rfl
  | sknp => obtain ⟨k, -, rfl⟩ | ⟨-, rfl⟩ := execSknp_cases h <;> rfl
  | ldB => obtain ⟨-, rfl⟩ | ⟨-, rfl⟩ := execLdB_cases h <;> rfl
  | storeRegs => obtain ⟨-, rfl⟩ | ⟨-, rfl⟩ := execStoreRegs_cases h <;> rfl

/-! ### Components and their writers (10_state.md R25, R29 to R33, R37) -/

/-- Settles O40: by the ways through each instruction; fault entry changes none of these components. -/
theorem componentsChangeOnlyByTheirWriters : Obligations.ComponentsChangeOnlyByTheirWriters := by
  unfold Obligations.ComponentsChangeOnlyByTheirWriters
  intro i s t h
  cases i with
  | ret => obtain ⟨hs, rfl⟩ | ⟨-, rfl⟩ := execRet_cases h <;> simp
  | call => obtain ⟨hs, rfl⟩ | ⟨-, rfl⟩ := execCall_cases h <;> simp
  | drw => obtain ⟨-, rfl⟩ | ⟨-, rfl⟩ := execDrw_cases h <;> simp
  | skp => obtain ⟨k, -, rfl⟩ | ⟨-, rfl⟩ := execSkp_cases h <;> simp
  | sknp => obtain ⟨k, -, rfl⟩ | ⟨-, rfl⟩ := execSknp_cases h <;> simp
  | ldVxK => obtain ⟨k, -, rfl⟩ | ⟨-, rfl⟩ := execLdVxK_cases h <;> simp
  | addI => obtain ⟨-, rfl⟩ | ⟨-, rfl⟩ := execAddI_cases h <;> simp
  | ldB => obtain ⟨-, rfl⟩ | ⟨-, rfl⟩ := execLdB_cases h <;> simp
  | storeRegs => obtain ⟨-, rfl⟩ | ⟨-, rfl⟩ := execStoreRegs_cases h <;> simp
  | loadRegs => obtain ⟨-, rfl⟩ | ⟨-, rfl⟩ := execLoadRegs_cases h <;> simp
  | _ => cases h; simp -- the others complete in every state

theorem exec_keeps_st {i : Instr} (hst : ∀ x, i ≠ .ldSTVx x) (h : exec i s = .next t) : t.st = s.st := by
  obtain ⟨-, -, -, -, -, -, hw, -, -⟩ := componentsChangeOnlyByTheirWriters i s t h
  by_contra hne
  obtain ⟨x, e⟩ := hw hne
  exact hst x e

theorem exec_keeps_stack {i : Instr} (hcall : ∀ nnn, i ≠ .call nnn) (h : exec i s = .next t) : t.stack = s.stack := by
  obtain ⟨-, -, -, -, hw, -, -, -, -⟩ := componentsChangeOnlyByTheirWriters i s t h
  by_contra hne
  obtain ⟨nnn, e⟩ := hw hne
  exact hcall nnn e

theorem exec_keeps_sp {i : Instr} (hret : i ≠ .ret) (hcall : ∀ nnn, i ≠ .call nnn) (h : exec i s = .next t) : t.sp = s.sp := by
  obtain ⟨-, -, -, hw, -, -, -, -, -⟩ := componentsChangeOnlyByTheirWriters i s t h
  by_contra hne
  obtain e | ⟨nnn, e⟩ := hw hne
  · exact hret e
  · exact hcall nnn e

end Sys2Proof.Machine
end

section
/-! PROOFS. What no instruction reads (spec/10_state.md R30, R31). ST is read by no instruction, and the stack by RET alone, below SP. So
two runs from states that differ in those go alike. -/

namespace Sys2Proof.Machine

variable {s t : State}

/-- The state with other values in ST and the stack. -/
def State.withSoundAndStack (s : State) (b : Byte) (σ : Vector Word 16) : State := { s with st := b, stack := σ }

/-- An in-range Fx1E looks at neither. -/
theorem State.setFlagInRange_withSoundAndStack (s : State) (b : Byte) (σ : Vector Word 16) :
    (s.withSoundAndStack b σ).setFlagInRange = s.setFlagInRange.withSoundAndStack b σ := by
  have hp : (s.withSoundAndStack b σ).params = s.params := rfl
  unfold State.setFlagInRange
  rw [hp]
  cases s.params.fx1eVf <;> rfl

/-- Replacing ST and the stack does not change what an instruction does, other than LD ST,Vx, CALL and RET: it commutes with the
instruction. -/
theorem exec_withSoundAndStack {i : Instr} (b : Byte) (σ : Vector Word 16) (hst : ∀ x, i ≠ .ldSTVx x)
    (hcall : ∀ nnn, i ≠ .call nnn) (hret : i ≠ .ret) (h : exec i s = .next t) :
    exec i (s.withSoundAndStack b σ) = .next (t.withSoundAndStack b σ) := by
  cases i with
  | ldSTVx x => exact absurd rfl (hst x)
  | call nnn => exact absurd rfl (hcall nnn)
  | ret => exact absurd rfl hret
  | skp =>
    obtain ⟨k, hk, rfl⟩ | ⟨hk, rfl⟩ := execSkp_cases h
    · exact execSkp_of_key (s := s.withSoundAndStack b σ) hk
    · exact execSkp_of_no_key (s := s.withSoundAndStack b σ) hk
  | sknp =>
    obtain ⟨k, hk, rfl⟩ | ⟨hk, rfl⟩ := execSknp_cases h
    · exact execSknp_of_key (s := s.withSoundAndStack b σ) hk
    · exact execSknp_of_no_key (s := s.withSoundAndStack b σ) hk
  | ldVxK =>
    obtain ⟨k, hk, rfl⟩ | ⟨hk, rfl⟩ := execLdVxK_cases h
    · exact execLdVxK_of_key (s := s.withSoundAndStack b σ) hk
    · exact execLdVxK_of_no_key (s := s.withSoundAndStack b σ) hk
  | addI =>
    obtain ⟨hs, rfl⟩ | ⟨hs, rfl⟩ := execAddI_cases h
    · exact if_pos hs
    · exact (if_neg (Nat.not_lt.2 hs)).trans
        (congrArg (fun u : State => Host.Outcome.next u.advance)
          ((s.setI (s.i + byte16 (s.getV _))).setFlagInRange_withSoundAndStack b σ))
  | drw =>
    obtain ⟨hr, rfl⟩ | ⟨hr, rfl⟩ := execDrw_cases h
    exacts [if_pos hr, if_neg (ne_true_of_eq_false hr)]
  | ldB =>
    obtain ⟨hr, rfl⟩ | ⟨hr, rfl⟩ := execLdB_cases h
    exacts [if_pos hr, if_neg (ne_true_of_eq_false hr)]
  | storeRegs =>
    obtain ⟨hr, rfl⟩ | ⟨hr, rfl⟩ := execStoreRegs_cases h
    exacts [if_pos hr, if_neg (ne_true_of_eq_false hr)]
  | loadRegs =>
    obtain ⟨hr, rfl⟩ | ⟨hr, rfl⟩ := execLoadRegs_cases h
    exacts [if_pos hr, if_neg (ne_true_of_eq_false hr)]
  | _ => cases h; rfl

/-! ### ST (10_state.md R31) -/

/-- An instruction other than LD ST,Vx does the same with another value in ST, and keeps that value. -/
theorem exec_setSt {i : Instr} (b : Byte) (hst : ∀ x, i ≠ .ldSTVx x) (h : exec i s = .next t) :
    exec i (s.setSt b) = .next (t.setSt b) := by
  by_cases hret : i = .ret
  · subst hret
    obtain ⟨hs, rfl⟩ | ⟨hs, rfl⟩ := execRet_cases h
    · exact dif_pos hs
    · exact dif_neg (Nat.not_lt.2 hs.le)
  by_cases hcall : ∃ nnn, i = .call nnn
  · obtain ⟨nnn, rfl⟩ := hcall
    obtain ⟨hs, rfl⟩ | ⟨hs, rfl⟩ := execCall_cases h
    · exact dif_pos hs
    · exact dif_neg (Nat.not_lt.2 hs.ge)
  · have hcall := not_exists.1 hcall
    calc exec i (s.setSt b) = .next (t.withSoundAndStack b s.stack) := exec_withSoundAndStack b s.stack hst hcall hret h
      _ = .next (t.setSt b) := by rw [← exec_keeps_stack hcall h]; rfl

/-- Settles O41: LD ST,Vx overwrites ST, and every other instruction commutes with a change of it. -/
theorem soundTimerIsReadByNoInstruction : Obligations.SoundTimerIsReadByNoInstruction := by
  unfold Obligations.SoundTimerIsReadByNoInstruction
  intro i s t b h
  by_cases hst : ∃ x, i = .ldSTVx x
  · obtain ⟨x, rfl⟩ := hst
    cases h
    exact ⟨_, rfl, rfl, .inl rfl⟩
  · have hst := not_exists.1 hst
    exact ⟨t.setSt b, exec_setSt b hst h, rfl, .inr ⟨hst, rfl, exec_keeps_st hst h⟩⟩

/-! ### The stack at SP and above (10_state.md R30) -/

/-- The two states have the same entries below SP of the second. -/
def SameLiveStack (u t : State) : Prop := ∀ k : Fin 16, k.val < t.sp.val → u.stack[k.val] = t.stack[k.val]

/-- RET pops the same entry off two stacks with the same live entries. -/
theorem SameLiveStack.top_eq {σ : Vector Word 16} (hσ : SameLiveStack { s with stack := σ } s) (hs : 0 < s.sp.val) :
    State.top { s with stack := σ } hs = s.top hs :=
  hσ ⟨s.sp.val - 1, by omega⟩ (show s.sp.val - 1 < s.sp.val by omega)

/-- An instruction does the same with other stack entries at SP and above. -/
theorem exec_of_sameLiveStack {i : Instr} {σ : Vector Word 16} (hσ : SameLiveStack { s with stack := σ } s)
    (h : exec i s = .next t) :
    ∃ u, exec i { s with stack := σ } = .next u ∧ { u with stack := t.stack } = t ∧ SameLiveStack u t := by
  by_cases hst : ∃ x, i = .ldSTVx x
  · obtain ⟨x, rfl⟩ := hst
    cases h
    exact ⟨_, rfl, rfl, hσ⟩
  by_cases hret : i = .ret
  · subst hret
    obtain ⟨hs, rfl⟩ | ⟨hs, rfl⟩ := execRet_cases h
    · refine ⟨_, dif_pos hs, ?_, fun k hk => hσ k (Nat.lt_of_lt_pred hk)⟩
      rw [hσ.top_eq hs]; rfl
    · exact ⟨_, dif_neg (Nat.not_lt.2 hs.le), rfl, hσ⟩
  by_cases hcall : ∃ nnn, i = .call nnn
  · obtain ⟨nnn, rfl⟩ := hcall
    obtain ⟨hs, rfl⟩ | ⟨hs, rfl⟩ := execCall_cases h
    · refine ⟨_, dif_pos hs, rfl, fun k hk => ?_⟩
      simp only [State.jump_stack, State.push_stack, Vector.getElem_set]
      split
      · rfl
      · rename_i hne
        exact hσ k (by simp at hk; omega)
    · exact ⟨_, dif_neg (Nat.not_lt.2 hs.ge), rfl, hσ⟩
  · have hst := not_exists.1 hst
    have hcall := not_exists.1 hcall
    refine ⟨_, exec_withSoundAndStack s.st σ hst hcall hret h, ?_, ?_⟩
    · rw [← exec_keeps_st hst h]; rfl
    · intro k hk
      rw [exec_keeps_sp hret hcall h] at hk
      rw [exec_keeps_stack hcall h]
      exact hσ k hk

/-- Settles O42: a write at or above SP leaves the live entries as they are. -/
theorem deadStackEntriesAreUnobservable : Obligations.DeadStackEntriesAreUnobservable := by
  unfold Obligations.DeadStackEntriesAreUnobservable
  intro i s t j w hj h
  refine exec_of_sameLiveStack (fun k hk => ?_) h
  have : j.val ≠ k.val := by change k.val < s.sp.val at hk; omega
  exact Vector.getElem_set_ne j.isLt k.isLt this

end Sys2Proof.Machine
end

section
/-! PROOFS. Construction (spec/10_state.md R38, spec/70_reset_and_hazards.md R280, R282). -/

namespace Sys2Proof.Machine

/-- A byte outside a block write is as it was. -/
theorem Memory.read_writeBytes_outside (m : Memory) {a b : Nat} {bs : List Byte} (h : b < a ∨ a + bs.length ≤ b) :
    Memory.read (Memory.writeBytes m a bs) b = Memory.read m b := by
  rw [Memory.read_writeBytes, dif_neg (by omega)]

/-- The byte number j of a block write. -/
theorem Memory.read_writeBytes_inside (m : Memory) (a : Nat) (bs : List Byte) (j : Fin bs.length) :
    Memory.read (Memory.writeBytes m a bs) (a + j.val) = bs[j.val] := by
  rw [Memory.read_writeBytes, dif_pos ⟨by omega, by omega⟩]
  simp

variable (image : List Byte) (glyphs : Vector Byte 80)

theorem constructMemory_glyph (a : Fin 80) : Memory.read (constructMemory image glyphs) a.val = glyphs[a.val] := by
  rw [constructMemory, Memory.read_writeBytes_outside _ (.inl (a.isLt.trans (by decide)))]
  have := Memory.read_writeBytes_inside [] 0 glyphs.toList ⟨a.val, by simp⟩
  simpa using this

theorem constructMemory_image (j : Fin image.length) :
    Memory.read (constructMemory image glyphs) (0x200 + j.val) = image[j.val] :=
  Memory.read_writeBytes_inside _ 0x200 image j

/-- Above the glyphs and outside the image memory is 0. -/
theorem constructMemory_zero {a : Nat} (hlo : 0x50 ≤ a) (h : a < 0x200 ∨ 0x200 + image.length ≤ a) :
    Memory.read (constructMemory image glyphs) a = 0 := by
  rw [constructMemory, Memory.read_writeBytes_outside _ h, Memory.read_writeBytes_outside _ (.inr (by simpa using hlo))]
  exact Memory.initial_of_le hlo

/-- An image of at most 3584 bytes gives the state of reset with the constructed memory and the parameters. -/
theorem State.construct_of_le {image : List Byte} (p : Params) (h : image.length ≤ 3584) :
    State.construct image glyphs p = .ok { State.reset with mem := constructMemory image glyphs, params := p } :=
  if_neg (Nat.not_lt.2 h)

/-- Settles O54: memory by the two block writes of construction, every other component by its reset value. -/
theorem constructionSetsEveryComponent : Obligations.ConstructionSetsEveryComponent := by
  unfold Obligations.ConstructionSetsEveryComponent
  intro image glyphs p
  refine ⟨fun h => if_pos h, rfl, fun h => ⟨_, State.construct_of_le glyphs p h, ?_⟩⟩
  refine ⟨?_, rfl, rfl, rfl, ?_, constructMemory_glyph image glyphs, ?_, constructMemory_image image glyphs, ?_, ?_, rfl, rfl, ?_,
    rfl, rfl⟩
  · intro r; simp [State.getV, State.reset]
  · intro j; simp [State.reset]
  · exact fun a hlo hhi => constructMemory_zero image glyphs hlo (.inl hhi)
  · exact fun a ha => constructMemory_zero image glyphs (by omega) (.inr ha)
  · intro r c; simp [State.pixel, State.reset]
  · intro k; simp [State.reset]

end Sys2Proof.Machine
end

section
/-! PROOFS. The decoder, the encoder and the opcode map agree (spec/30_encoding.md R83, R85, R87, R88, R89). -/

namespace Sys2Proof

/-! ### Decoding an encoded instruction (R83, R87) -/

theorem fieldKk_encodeXK {op : Nat} (x : Reg) (kk : Byte) (h : op < 16) : fieldKk (encodeXK op x kk.toNat) = kk :=
  BitVec.eq_of_toNat_eq (fields_encodeXK x h kk.isLt).2.2

theorem fieldN_encodeXYN {op : Nat} (x y n : Fin 16) (h : op < 16) : fieldN (encodeXYN op x y n.val) = n :=
  Fin.ext (fields_encodeXYN x y h n.isLt).2.2.2

/-- The instructions of one format share the argument: `decode` looks at the fields that the format lays out. -/
theorem decode_encode (i : Instr) : decode (encode i) = some i := by
  cases i with
  | cls | ret => rfl
  | jp nnn | call nnn | ldI nnn | jpV0 nnn => simp [encode, decode, fields_encodeN]
  | seImm x kk | sneImm x kk | ldImm x kk | addImm x kk | rnd x kk =>
    simp [encode, decode, fields_encodeXK, fieldKk_encodeXK, kk.isLt]
  | seReg x y | sneReg x y => simp [encode, decode, fields_encodeXYN]
  | ldReg x y | orReg x y | andReg x y | xorReg x y | addReg x y | subReg x y | shr x y | subn x y | shl x y =>
    simp [encode, decode, decodeAlu, fields_encodeXYN]
  | drw x y n => simp [encode, decode, fields_encodeXYN, fieldN_encodeXYN]
  | skp x | sknp x => simp [encode, decode, decodeKey, fields_encodeXK]
  | ldVxDT x | ldVxK x | ldDTVx x | ldSTVx x | addI x | ldF x | ldB x | storeRegs x | loadRegs x =>
    simp [encode, decode, decodeMisc, fields_encodeXK]

/-- The first two bytes of a list decide what `decodeBytes` reads. -/
theorem decodeBytes_of_decode {hi lo : Byte} {i : Instr} (rest : List Byte) (h : decode (wordOfBytes hi lo) = some i) :
    decodeBytes (hi :: lo :: rest) = .ok (i, rest) := by
  simp only [decodeBytes, h]

/-- Settles O47: on words format by format, on bytes because a word is the join of its two bytes. -/
theorem decodeOfEncodeIsTheInstruction : Obligations.DecodeOfEncodeIsTheInstruction := by
  unfold Obligations.DecodeOfEncodeIsTheInstruction
  intro i rest
  refine ⟨decode_encode i, decodeBytes_of_decode rest ?_⟩
  rw [wordOfBytes_bytes, decode_encode]

/-! ### Encoding a decoded word (R89) -/

theorem fieldOp4_lt (w : Word) : fieldOp4 w < 16 := (w.extractLsb' 12 4).isLt

section Layouts

variable {w : Word} {op : Nat}

/-- A word is its fields laid out in format N. -/
theorem encodeN_fields (hop : fieldOp4 w = op) : encodeN op (fieldNnn w) = w := by
  have := w.isLt
  subst hop
  apply BitVec.eq_of_toNat_eq
  rw [encodeN_toNat _ (fieldOp4_lt w), fieldOp4_eq, fieldNnn_toNat]
  omega

/-- A word is its fields laid out in format XK. -/
theorem encodeXK_fields (hop : fieldOp4 w = op) : encodeXK op (fieldX w) (fieldKk w).toNat = w := by
  have := w.isLt
  subst hop
  apply BitVec.eq_of_toNat_eq
  rw [encodeXK_toNat _ (fieldOp4_lt w) (fieldKk w).isLt, fieldOp4_eq, fieldX_val, fieldKk_toNat]
  omega

/-- A word is its fields laid out in format XYN. -/
theorem encodeXYN_fields {n : Nat} (hop : fieldOp4 w = op) (hn : (fieldN w).val = n) :
    encodeXYN op (fieldX w) (fieldY w) n = w := by
  have := w.isLt
  subst hop hn
  apply BitVec.eq_of_toNat_eq
  rw [encodeXYN_toNat _ _ (fieldOp4_lt w) (fieldN w).isLt, fieldOp4_eq, fieldX_val, fieldY_val, fieldN_val]
  omega

end Layouts

theorem encode_of_decodeSystem {w : Word} {i : Instr} (h : decodeSystem w = some i) : encode i = w := by
  unfold decodeSystem at h
  split at h
  · cases h; exact Eq.symm ‹_›
  · split at h <;> cases h
    exact Eq.symm ‹_›

theorem encode_of_decodeAlu {x y : Reg} {n : Nat} {i : Instr} (h : decodeAlu x y n = some i) : encode i = encodeXYN 0x8 x y n := by
  unfold decodeAlu at h
  split at h <;> cases h <;> rfl

theorem encode_of_decodeKey {x : Reg} {kk : Nat} {i : Instr} (h : decodeKey x kk = some i) : encode i = encodeXK 0xE x kk := by
  unfold decodeKey at h
  split_ifs at h <;> cases h <;> subst kk <;> rfl

theorem encode_of_decodeMisc {x : Reg} {kk : Nat} {i : Instr} (h : decodeMisc x kk = some i) : encode i = encodeXK 0xF x kk := by
  unfold decodeMisc at h
  split_ifs at h <;> cases h <;> subst kk <;> rfl

/-- By the groups of the dispatch (R85): the fields a group's instructions keep are all the word has. -/
theorem encode_of_decode {w : Word} {i : Instr} (h : decode w = some i) : encode i = w := by
  unfold decode at h
  split at h <;> rename_i hop
  case h_1 => exact encode_of_decodeSystem h
  case h_9 => exact (encode_of_decodeAlu h).trans (encodeXYN_fields hop rfl)
  case h_15 => exact (encode_of_decodeKey h).trans (encodeXK_fields hop)
  case h_16 => exact (encode_of_decodeMisc h).trans (encodeXK_fields hop)
  case h_6 | h_10 => -- format XYS with the one selector n = 0
    split at h <;> cases h
    exact encodeXYN_fields hop ‹_›
  case h_2 | h_3 | h_11 | h_12 => cases h; exact encodeN_fields hop
  case h_4 | h_5 | h_7 | h_8 | h_13 => cases h; exact encodeXK_fields hop
  case h_14 => cases h; exact encodeXYN_fields hop rfl
  case h_17 => cases h

/-- Settles O48: by the groups of the dispatch. -/
theorem encodeOfDecodeIsTheWord : Obligations.EncodeOfDecodeIsTheWord := by
  unfold Obligations.EncodeOfDecodeIsTheWord
  exact fun _ _ => encode_of_decode

/-! ### The illegal words (R88) -/

theorem ite_some_eq_none_iff {α : Type} {c : Prop} [Decidable c] {a : α} {o : Option α} :
    (if c then some a else o) = none ↔ ¬ c ∧ o = none := by
  by_cases hc : c <;> simp [hc]

theorem decodeSystem_eq_none_iff (w : Word) : decodeSystem w = none ↔ w.toNat ≠ 0x00E0 ∧ w.toNat ≠ 0x00EE := by
  simp [decodeSystem, ite_some_eq_none_iff, ← BitVec.toNat_inj]

theorem decodeAlu_eq_none_iff (x y : Reg) (n : Fin 16) :
    decodeAlu x y n.val = none ↔ n.val ∈ [0x8, 0x9, 0xA, 0xB, 0xC, 0xD, 0xF] := by
  fin_cases n <;> simp [decodeAlu]

theorem decodeKey_eq_none_iff (x : Reg) (kk : Nat) : decodeKey x kk = none ↔ kk ∉ [0x9E, 0xA1] := by
  simp [decodeKey, ite_some_eq_none_iff]

theorem decodeMisc_eq_none_iff (x : Reg) (kk : Nat) :
    decodeMisc x kk = none ↔ kk ∉ [0x07, 0x0A, 0x15, 0x18, 0x1E, 0x29, 0x33, 0x55, 0x65] := by
  simp [decodeMisc, ite_some_eq_none_iff]

/-- Settles O50: in each group of the dispatch (R85), by the values of the group's selector. -/
theorem illegalWordsAreTheListedGroups : Obligations.IllegalWordsAreTheListedGroups := by
  unfold Obligations.IllegalWordsAreTheListedGroups
  intro w
  have hop4 : w.toNat / 0x1000 = fieldOp4 w := by have := w.isLt; rw [fieldOp4_eq]; omega
  have hsys : w.toNat < 0x1000 ↔ fieldOp4 w = 0 := by omega
  rw [hop4, hsys, ← fieldN_val, ← fieldKk_toNat]
  unfold decode
  split <;> rename_i hop
  case h_1 => simp [hop, decodeSystem_eq_none_iff]
  case h_6 | h_10 => simp [hop]
  case h_9 => simp [hop, decodeAlu_eq_none_iff]
  case h_15 => simp [hop, decodeKey_eq_none_iff]
  case h_16 => simp [hop, decodeMisc_eq_none_iff]
  case h_17 => have := fieldOp4_lt w; interval_cases fieldOp4 w <;> contradiction
  all_goals simp [hop] -- in the other groups every word is legal

/-! ### The opcode map (R87) -/

open Laws.EncodesInItsRow in
/-- Every instruction's word lies in the row of the opcode map that bears its mnemonic. -/
theorem encode_mem_row : ∀ i : Instr, Laws.EncodesInItsRow.Statement i
  | .cls => cls | .ret => ret | .jp _ => jp _ | .call _ => call _ | .seImm _ _ => seImm _ _ | .sneImm _ _ => sneImm _ _
  | .seReg _ _ => seReg _ _ | .ldImm _ _ => ldImm _ _ | .addImm _ _ => addImm _ _ | .ldReg _ _ => ldReg _ _
  | .orReg _ _ => orReg _ _ | .andReg _ _ => andReg _ _ | .xorReg _ _ => xorReg _ _ | .addReg _ _ => addReg _ _
  | .subReg _ _ => subReg _ _ | .shr _ _ => shr _ _ | .subn _ _ => subn _ _ | .shl _ _ => shl _ _
  | .sneReg _ _ => sneReg _ _ | .ldI _ => ldI _ | .jpV0 _ => jpV0 _ | .rnd _ _ => rnd _ _ | .drw _ _ _ => drw _ _ _
  | .skp _ => skp _ | .sknp _ => sknp _ | .ldVxDT _ => ldVxDT _ | .ldVxK _ => ldVxK _ | .ldDTVx _ => ldDTVx _
  | .ldSTVx _ => ldSTVx _ | .addI _ => addI _ | .ldF _ => ldF _ | .ldB _ => ldB _ | .storeRegs _ => storeRegs _
  | .loadRegs _ => loadRegs _

/-- A word that decodes matches the row of the instruction it decodes to. -/
theorem exists_row_of_decode {w : Word} {i : Instr} (h : decode w = some i) :
    ∃ row ∈ opcodeMap, row.mnemonic = i.mnemonic ∧ w &&& row.mask = row.pattern := by
  obtain ⟨row, hmem, hname, hhits⟩ := encode_mem_row i
  rw [encode_of_decode h] at hhits
  exact ⟨row, hmem, hname, beq_iff_eq.1 hhits⟩

/-- Two rows of the opcode map whose values agree in the bits that both fix are one row. -/
theorem row_eq_of_agree : ∀ r₁ ∈ opcodeMap, ∀ r₂ ∈ opcodeMap, r₁.pattern &&& r₂.mask = r₂.pattern &&& r₁.mask → r₁ = r₂ := by
  decide

/-- No word matches two rows. -/
theorem row_unique {w : Word} {r₁ r₂ : OpRow} (h₁ : r₁ ∈ opcodeMap) (h₂ : r₂ ∈ opcodeMap) (hw₁ : w &&& r₁.mask = r₁.pattern)
    (hw₂ : w &&& r₂.mask = r₂.pattern) : r₁ = r₂ := by
  refine row_eq_of_agree r₁ h₁ r₂ h₂ ?_
  rw [← hw₁, ← hw₂, BitVec.and_assoc, BitVec.and_assoc, BitVec.and_comm r₁.mask]

/-- An illegal word matches no row: each row asks for other numbers of op4 and the low bits than the groups of illegal words have. -/
theorem no_row_of_decode_eq_none {w : Word} (h : decode w = none) : ∀ row ∈ opcodeMap, w &&& row.mask ≠ row.pattern := by
  have hgroups := (illegalWordsAreTheListedGroups w).1 h
  have mask_F000 p := maskedWord_eq_iff w 0xF000#16 p 0 rfl (by decide)
  have mask_F00F p := maskedWord_eq_iff w 0xF00F#16 p 4 rfl (by decide)
  have mask_F0FF p := maskedWord_eq_iff w 0xF0FF#16 p 8 rfl (by decide)
  have mask_FFFF p := maskedWord_eq_iff w 0xFFFF#16 p 12 rfl (by decide)
  simp [opcodeMap, opcodeMapA, opcodeMapB, opcodeMapC, mask_F000, mask_F00F, mask_F0FF, mask_FFFF] at hgroups ⊢
  omega

/-- Settles O49: a word that decodes matches the row of its instruction, and that row alone; an illegal word matches none. -/
theorem decoderFollowsTheOpcodeMap : Obligations.DecoderFollowsTheOpcodeMap := by
  unfold Obligations.DecoderFollowsTheOpcodeMap
  refine ⟨fun w => ⟨no_row_of_decode_eq_none, fun hno => ?_⟩, fun w i hd row hrow hw => ?_, fun _ _ h₁ _ h₂ => row_unique h₁ h₂⟩
  · refine Option.eq_none_iff_forall_ne_some.2 fun i hd => ?_
    obtain ⟨row, hrow, -, hw⟩ := exists_row_of_decode hd
    exact hno row hrow hw
  · obtain ⟨own, hown, hname, hw'⟩ := exists_row_of_decode hd
    rw [row_unique hrow hown hw hw', hname]

/-- Settles O51: by evaluating the decoder on each word. -/
theorem sampleWordsDecode : Obligations.SampleWordsDecode := by
  unfold Obligations.SampleWordsDecode
  decide

end Sys2Proof
end

section
/-! PROOFS. The display (spec/40_display.md R110 to R113): what a sprite does to each pixel and to VF, and that drawing it twice undoes it. -/

namespace Sys2Proof.Machine

variable {s t : State} {x y : Reg} {n : Fin 16}

/-! ### CLS (R110) -/

theorem blankDisplay_pixel (r : Fin 32) (c : Fin 64) : blankDisplay[r.val][c.val] = false := by
  simp [blankDisplay]

/-- Settles O1: CLS replaces the display by the blank one and advances PC. -/
theorem clsClearsTheDisplay : Obligations.ClsClearsTheDisplay := by
  unfold Obligations.ClsClearsTheDisplay
  intro s
  exact ⟨rfl, _, rfl, blankDisplay_pixel, rfl, by simp [Keeps]⟩

/-! ### The canvas of a completed DRW (R111, R112) -/

theorem mem_spritePixels_iff_underSprite (s : State) (x y : Reg) (n : Nat) (r : Fin 32) (c : Fin 64) :
    (r, c) ∈ spritePixels s.mem s.i.toNat n (s.getV x).toNat (s.getV y).toNat ↔ s.UnderSprite x y n r c :=
  mem_spritePixels ..

/-- The canvas inverts exactly the pixels under the sprite. -/
theorem State.canvas_pixel (s : State) (x y : Reg) {n : Nat} (hn : n ≤ 32) (r : Fin 32) (c : Fin 64)
    [Decidable (s.UnderSprite x y n r c)] :
    (s.canvas x y n).pixel r c = if s.UnderSprite x y n r c then !s.pixel r c else s.pixel r c := by
  rw [State.canvas, drawSprite_eq, flipAll_pixel (spritePixels_nodup _ _ _ _ _ hn)]
  simp only [mem_spritePixels_iff_underSprite]
  rfl

/-- The canvas notes a collision exactly when a pixel under the sprite was set. -/
theorem State.canvas_collision (s : State) (x y : Reg) {n : Nat} (hn : n ≤ 32) :
    (s.canvas x y n).collision = true ↔ ∃ r c, s.UnderSprite x y n r c ∧ s.pixel r c = true := by
  rw [State.canvas, drawSprite_eq, flipAll_collision (spritePixels_nodup _ _ _ _ _ hn)]
  simp only [Bool.false_eq_true, false_or, Prod.exists, mem_spritePixels_iff_underSprite]
  rfl

/-! ### DRW (R111, R112, spec/92_eei_decisions.md D4) -/

/-- The fault guard of DRW as R246 writes it. -/
theorem State.dataInRange_rows (s : State) (n : Fin 16) : s.dataInRange n.val = true ↔ n.val = 0 ∨ s.i.toNat + n.val - 1 ≤ 0xFFF := by
  rw [State.dataInRange_iff]; omega

/-- A sprite within memory is drawn. -/
theorem execDrw_of_inRange (hin : s.dataInRange n.val = true) :
    exec (.drw x y n) s =
      .next ((s.setDisp (s.canvas x y n.val).disp).setV regF (flagByte (s.canvas x y n.val).collision)).advance :=
  if_pos hin

/-- A sprite that leaves memory is a fault. -/
theorem execDrw_of_outOfRange (hout : s.dataInRange n.val = false) :
    exec (.drw x y n) s = .next (s.raise .dataOutOfRange (some (encode (.drw x y n))) (.address s.badDataAddress)) :=
  if_neg (ne_true_of_eq_false hout)

/-- The word of DRW, Dxyn. -/
theorem encode_drw (x y : Reg) (n : Fin 16) :
    encode (.drw x y n) = BitVec.ofNat 16 (0xD000 + x.val * 0x100 + y.val * 0x10 + n.val) := rfl

/-- Fault entry changes FAULT alone. -/
theorem keeps_raise (s : State) (c : FaultCode) (w : Option Word) (d : FaultDetail) : Keeps s (s.raise c w d) [.fault] := by
  simp [Keeps]

section Completed

variable (hin : s.dataInRange n.val = true) (h : exec (.drw x y n) s = .next t)
include hin h

/-- The next state of a completed DRW. -/
theorem execDrw_eq_of_inRange :
    t = ((s.setDisp (s.canvas x y n.val).disp).setV regF (flagByte (s.canvas x y n.val).collision)).advance :=
  Host.Outcome.next.inj (h.symm.trans (execDrw_of_inRange hin))

/-- A completed DRW inverts exactly the pixels under the sprite. -/
theorem execDrw_pixel (r : Fin 32) (c : Fin 64) [Decidable (s.UnderSprite x y n.val r c)] :
    t.pixel r c = if s.UnderSprite x y n.val r c then !s.pixel r c else s.pixel r c := by
  rw [← s.canvas_pixel x y (by omega), execDrw_eq_of_inRange hin h]
  rfl

theorem execDrw_flag : t.getV 15 = flagByte (s.canvas x y n.val).collision := by
  rw [execDrw_eq_of_inRange hin h]
  simp

/-- VF after a completed DRW is 1 exactly when a pixel under the sprite was set. -/
theorem execDrw_flag_eq_one : t.getV 15 = 1 ↔ ∃ r c, s.UnderSprite x y n.val r c ∧ s.pixel r c = true := by
  rw [← s.canvas_collision x y (by omega), execDrw_flag hin h]
  exact flagByte_eq_one _

/-- VF after a completed DRW is a flag. -/
theorem execDrw_flag_zero_or_one : t.getV 15 = 0 ∨ t.getV 15 = 1 := by
  rw [execDrw_flag hin h]
  cases (s.canvas x y n.val).collision
  · exact .inl rfl
  · exact .inr rfl

/-- A completed DRW changes DISP, VF and PC alone. -/
theorem execDrw_keeps : Keeps s t [.disp, .reg 15, .pc] := by
  rw [execDrw_eq_of_inRange hin h]
  simp +contextual [Keeps]

end Completed

/-- Settles O2: the canvas inverts the pixels under the sprite and notes a collision, or the guard fails and the fault is latched. -/
theorem drwXorsTheSpriteAndReportsCollision : Obligations.DrwXorsTheSpriteAndReportsCollision := by
  classical
  unfold Obligations.DrwXorsTheSpriteAndReportsCollision
  intro x y n s
  refine ⟨decode_encode (.drw x y n), fun hin => ?_, fun hout => ?_⟩
  · have hin := (s.dataInRange_rows n).2 hin
    have h := execDrw_of_inRange (x := x) (y := y) hin
    refine ⟨_, h, fun r c hu => ?_, fun r c hu => ?_, (execDrw_flag_eq_one hin h).2, fun hno => ?_, rfl, execDrw_keeps hin h⟩
    · rw [execDrw_pixel hin h, if_pos hu]
    · rw [execDrw_pixel hin h, if_neg hu]
    · exact (execDrw_flag_zero_or_one hin h).resolve_right (mt (execDrw_flag_eq_one hin h).1 hno)
  · have hout : s.dataInRange n.val = false := Bool.eq_false_iff.2 (mt (s.dataInRange_rows n).1 (by omega))
    refine ⟨_, execDrw_of_outOfRange hout, ?_, keeps_raise ..⟩
    rw [State.raise_fault, encode_drw, State.badDataAddress_eq]

/-! ### Drawing twice (R113) -/

/-- The pixels under a sprite depend on I, the sprite's bytes, V[x] and V[y] alone. -/
theorem State.underSprite_congr {s' : State} {n : Nat} (hi : s'.i = s.i)
    (hbytes : ∀ row, row < n → s'.readMem (s.i.toNat + row) = s.readMem (s.i.toNat + row)) (hx : s'.getV x = s.getV x)
    (hy : s'.getV y = s.getV y) (r : Fin 32) (c : Fin 64) : s'.UnderSprite x y n r c ↔ s.UnderSprite x y n r c := by
  unfold State.UnderSprite
  rw [hi, hx, hy]
  refine exists_congr fun row => exists_congr fun col => and_congr_right fun hrow => ?_
  rw [hbytes row hrow]

/-- Settles O3: both draws invert the same pixels, so the second undoes the first, and it collides where the first turned a pixel on. -/
theorem drawingTwiceRestoresTheDisplay : Obligations.DrawingTwiceRestoresTheDisplay := by
  classical
  unfold Obligations.DrawingTwiceRestoresTheDisplay
  intro x y n s t t' u hin hs ⟨hi, hbytes, hx, hy, hdisp⟩ ht'
  have hin : s.dataInRange n.val = true := (s.dataInRange_rows n).2 hin
  have hin' : t'.dataInRange n.val = true := by rwa [State.dataInRange, hi]
  have under := State.underSprite_congr hi hbytes hx hy
  have shown (r c) : t'.pixel r c = t.pixel r c := by rw [State.pixel, hdisp]; rfl
  have first := execDrw_pixel hin hs
  refine ⟨fun r c => ?_, ?_, ?_⟩
  · rw [execDrw_pixel hin' ht', shown, first]
    simp only [under]
    split <;> simp
  · rw [execDrw_flag_eq_one hin' ht']
    refine exists_congr fun r => exists_congr fun c => ?_
    rw [under, shown, first]
    split <;> simp [*]
  · exact execDrw_flag_zero_or_one hin' ht'

end Sys2Proof.Machine
end

section
/-! PROOFS. Control transfer (spec/41_flow.md R131 to R135): the stack across a push and a pop, then jumps, CALL and RET. -/

namespace Sys2Proof.Machine

variable {s t : State} {nnn : BitVec 12}

/-! ### The call stack (spec/10_state.md R30) -/

/-- The entry a pop returns depends on SP and the stack alone. -/
theorem State.top_congr (hsp : t.sp = s.sp) (hstack : t.stack = s.stack) (ht : 0 < t.sp.val) (hs : 0 < s.sp.val) :
    t.top ht = s.top hs := by
  simp only [State.top, hsp, hstack]

/-- The entry a pop returns, by the number of entries below it. -/
theorem State.top_eq_getElem {k : Fin 16} (hk : s.sp.val = k.val + 1) (hs : 0 < s.sp.val) : s.top hs = s.stack[k.val] := by
  simp only [State.top, hk, Nat.add_sub_cancel]

/-- A pop returns what was pushed last. -/
theorem State.top_push (w : Word) (hs : s.sp.val < 16) (h : 0 < (s.push w hs).sp.val) : (s.push w hs).top h = w := by
  simp [State.top]

/-- A push writes the entry at SP and no other. -/
theorem State.push_stack_getElem {k : Fin 16} (hk : s.sp.val = k.val) (w : Word) (hs : s.sp.val < 16) (j : Fin 16) :
    (s.push w hs).stack[j.val] = if j = k then w else s.stack[j.val] := by
  simp only [State.push_stack, Vector.getElem_set, hk, ← Fin.ext_iff, eq_comm]

/-! ### RET (R131) -/

/-- RET with an entry on the stack. -/
theorem execRet_of_pos (hs : 0 < s.sp.val) : exec .ret s = .next ((s.drop hs).jump (s.top hs)) := dif_pos hs

/-- RET with no entry on the stack. -/
theorem execRet_of_empty (hs : s.sp.val = 0) :
    exec .ret s = .next (s.raise .stackUnderflow (some (encode .ret)) .noDetail) :=
  dif_neg (Nat.not_lt.2 hs.le)

/-- Settles O4: the completed RET by its pop, the faulting one by fault entry. -/
theorem retPopsTheReturnAddress : Obligations.RetPopsTheReturnAddress := by
  unfold Obligations.RetPopsTheReturnAddress
  intro s
  refine ⟨decode_encode .ret, fun k hk => ?_, fun hs => ?_⟩
  · have hs : 0 < s.sp.val := by omega
    exact ⟨_, execRet_of_pos hs, Nat.sub_eq_of_eq_add hk, State.top_eq_getElem hk hs, by simp [Keeps]⟩
  · exact ⟨_, execRet_of_empty hs, rfl, keeps_raise ..⟩

/-! ### Jumps (R132, R134) -/

/-- A jump changes PC alone. -/
theorem keeps_jump (s : State) (w : Word) : Keeps s (s.jump w) [.pc] := by simp [Keeps]

/-- Settles O5: JP jumps to its zero-extended address. -/
theorem jpSetsPc : Obligations.JpSetsPc := by
  unfold Obligations.JpSetsPc
  exact fun nnn s => ⟨decode_encode (.jp nnn), _, rfl, addr16_toNat nnn, keeps_jump ..⟩

/-- The sum of an address and a byte fits 16 bits (spec/92_eei_decisions.md D9). -/
theorem addr16_add_byte16_toNat (nnn : BitVec 12) (b : Byte) : (addr16 nnn + byte16 b).toNat = nnn.toNat + b.toNat := by
  rw [BitVec.toNat_add, addr16_toNat, byte16_toNat]; omega

/-- Settles O7: JP V0 jumps to a sum that does not wrap. -/
theorem jpV0AddsV0 : Obligations.JpV0AddsV0 := by
  unfold Obligations.JpV0AddsV0
  exact fun nnn s => ⟨decode_encode (.jpV0 nnn), _, rfl, addr16_add_byte16_toNat nnn _, keeps_jump ..⟩

/-! ### CALL (R133) -/

/-- CALL with room on the stack. -/
theorem execCall_of_room (hs : s.sp.val < 16) :
    exec (.call nnn) s = .next ((s.push (s.pc + 2) hs).jump (addr16 nnn)) := dif_pos hs

/-- CALL on a full stack. -/
theorem execCall_of_full (hs : s.sp.val = 16) :
    exec (.call nnn) s = .next (s.raise .stackOverflow (some (encode (.call nnn))) .noDetail) :=
  dif_neg (Nat.not_lt.2 hs.ge)

/-- Settles O6: the completed CALL by its push, the faulting one by fault entry. -/
theorem callPushesTheReturnAddress : Obligations.CallPushesTheReturnAddress := by
  unfold Obligations.CallPushesTheReturnAddress
  intro nnn s
  refine ⟨decode_encode (.call nnn), fun k hk => ?_, fun hs => ?_⟩
  · have hs : s.sp.val < 16 := by omega
    have hstack := State.push_stack_getElem hk (s.pc + 2) hs
    exact ⟨_, execCall_of_room hs, congrArg (· + 1) hk, (hstack k).trans (if_pos rfl), fun j hj => (hstack j).trans (if_neg hj),
      addr16_toNat nnn, by simp [Keeps]⟩
  · exact ⟨_, execCall_of_full hs, rfl, keeps_raise ..⟩

/-! ### CALL, then RET (R135) -/

/-- Settles O8: the CALL has room and leaves an entry, so the RET pops what the CALL pushed. -/
theorem callThenRetReturnsAfterTheCall : Obligations.CallThenRetReturnsAfterTheCall := by
  unfold Obligations.CallThenRetReturnsAfterTheCall
  intro nnn s t t' u hs hcall ⟨hsp, hstack⟩ hret
  cases (execCall_of_room hs).symm.trans hcall
  have hsp' : t'.sp.val = s.sp.val + 1 := congrArg Fin.val hsp
  have hpos : 0 < t'.sp.val := by omega
  cases (execRet_of_pos hpos).symm.trans hret
  refine ⟨?_, Fin.ext (Nat.sub_eq_of_eq_add hsp'), rfl⟩
  have hpushed : 0 < (s.push (s.pc + 2) hs).sp.val := Nat.succ_pos _
  calc t'.top hpos = (s.push (s.pc + 2) hs).top hpushed := State.top_congr hsp hstack hpos hpushed
    _ = s.pc + 2 := State.top_push ..

end Sys2Proof.Machine
end

section
/-! PROOFS. Conditional skips (spec/42_skips.md R150 to R156). -/

namespace Sys2Proof.Machine

/-! ### The shared outcome of a skip (R150) -/

/-- A skip changes PC alone. -/
theorem keeps_skipIf (s : State) (c : Bool) : Keeps s (s.skipIf c) [.pc] := by simp [Keeps]

/-- A skip on the failure of `p` adds 2 to PC when `p` holds and 4 otherwise. -/
theorem State.skipIf_pc_of_iff_not {s : State} {c : Bool} {p : Prop} [Decidable p] (h : c = true ↔ ¬ p) :
    (s.skipIf c).pc = if p then s.pc + 2 else s.pc + 4 :=
  (State.skipIf_pc_of_iff h).trans (ite_not ..)

/-! ### Skips on a register's value (R151 to R154) -/

/-- Settles O9: the two skips are on `==` and `!=`. -/
theorem skipsCompareWithTheImmediate : Obligations.SkipsCompareWithTheImmediate := by
  unfold Obligations.SkipsCompareWithTheImmediate
  intro x kk s
  refine ⟨decode_encode (.seImm x kk), decode_encode (.sneImm x kk), ?se, ?sne⟩
  case se => exact ⟨_, rfl, State.skipIf_pc_of_iff beq_iff_eq, keeps_skipIf ..⟩
  case sne => exact ⟨_, rfl, State.skipIf_pc_of_iff_not bne_iff_ne, keeps_skipIf ..⟩

/-- In the groups of 5xy0 and 9xy0 a word with another n is illegal (spec/30_encoding.md R88). -/
theorem decode_encodeXYN_eq_none {op : Nat} (hop : op = 0x5 ∨ op = 0x9) (x y n : Fin 16) (hn : n ≠ 0) :
    decode (encodeXYN op x y n.val) = none := by
  have hn : n.val ≠ 0 := fun e => hn (Fin.ext e)
  obtain rfl | rfl := hop <;> simp [decode, fields_encodeXYN, hn]

/-- Settles O10: as for the immediates, and the two groups have the one selector n = 0. -/
theorem skipsCompareRegisters : Obligations.SkipsCompareRegisters := by
  unfold Obligations.SkipsCompareRegisters
  intro x y s
  refine ⟨decode_encode (.seReg x y), decode_encode (.sneReg x y), fun n hn => ?illegal, ?se, ?sne⟩
  case illegal => exact ⟨decode_encodeXYN_eq_none (.inl rfl) x y n hn, decode_encodeXYN_eq_none (.inr rfl) x y n hn⟩
  case se => exact ⟨_, rfl, State.skipIf_pc_of_iff beq_iff_eq, keeps_skipIf ..⟩
  case sne => exact ⟨_, rfl, State.skipIf_pc_of_iff_not bne_iff_ne, keeps_skipIf ..⟩

/-! ### Skips on a key (R155, R156, spec/92_eei_decisions.md D5) -/

/-- The word of SKP, Ex9E. -/
theorem encode_skp (x : Reg) : encode (.skp x) = BitVec.ofNat 16 (0xE09E + x.val * 0x100) :=
  congrArg (BitVec.ofNat 16) (by omega)

/-- The word of SKNP, ExA1. -/
theorem encode_sknp (x : Reg) : encode (.sknp x) = BitVec.ofNat 16 (0xE0A1 + x.val * 0x100) :=
  congrArg (BitVec.ofNat 16) (by omega)

/-- Settles O11: a value up to 0xF names a key, whose state the skips test; a larger one names none, and the fault is latched. -/
theorem skipsTestTheKey : Obligations.SkipsTestTheKey := by
  unfold Obligations.SkipsTestTheKey
  intro x s
  rw [← encode_skp, ← encode_sknp]
  refine ⟨decode_encode (.skp x), decode_encode (.sknp x), fun k hval => ?key, fun hval => ?noKey⟩
  case key =>
    have hk : keyOf (s.getV x) = some k := (keyOf_eq_some _ k).2 hval
    exact ⟨⟨_, execSkp_of_key hk, State.skipIf_pc_of_iff Iff.rfl, keeps_skipIf ..⟩,
      ⟨_, execSknp_of_key hk, State.skipIf_pc_of_iff (Bool.not_eq_true' _).to_iff, keeps_skipIf ..⟩⟩
  case noKey =>
    have hk : keyOf (s.getV x) = none := (keyOf_eq_none _).2 hval
    exact ⟨⟨_, execSkp_of_no_key hk, keeps_raise .., rfl⟩, ⟨_, execSknp_of_no_key hk, keeps_raise .., rfl⟩⟩

end Sys2Proof.Machine
end

section
/-! PROOFS. Register arithmetic and logic (spec/43_alu.md R171 to R185). -/

namespace Sys2Proof.Machine

variable (s : State) (x : Reg)

/-! ### The words 8xyn (spec/30_encoding.md R83) -/

/-- The word of an instruction in the group op4 = 8, its selector n written into the opcode. -/
theorem decode_aluWord {x y : Reg} {i : Instr} (n : Nat) (hi : encode i = encodeXYN 0x8 x y n) :
    decode (BitVec.ofNat 16 (0x8000 + n + x.val * 0x100 + y.val * 0x10)) = some i := by
  have hword : 0x8000 + n + x.val * 0x100 + y.val * 0x10 = 0x8 * 0x1000 + x.val * 0x100 + y.val * 0x10 + n := by omega
  rw [hword, ← encodeXYN, ← hi, decode_encode]

/-! ### Instructions that write Vx and no flag (R171 to R176) -/

theorem State.setV_getV_self (b : Byte) : (s.setV x b).getV x = b := (s.setV_getV x x b).trans (if_pos rfl)

/-- Writing Vx and going to the next instruction changes Vx and PC alone. -/
theorem keeps_setV_advance (b : Byte) : Keeps s (s.setV x b).advance [.reg x, .pc] := by
  simp +contextual [Keeps]

/-- Settles O12: both write Vx, and the sum of bytes is modulo 256. -/
theorem immediateLoadAndAdd : Obligations.ImmediateLoadAndAdd := by
  unfold Obligations.ImmediateLoadAndAdd
  intro x kk s
  refine ⟨decode_encode (.ldImm x kk), decode_encode (.addImm x kk), ⟨_, rfl, ?ld, rfl, keeps_setV_advance ..⟩,
    ⟨_, rfl, ?add, rfl, keeps_setV_advance ..⟩⟩
  case ld => exact s.setV_getV_self x kk
  case add => rw [State.advance_getV, State.setV_getV_self]; exact BitVec.toNat_add ..

/-- Settles O13: each writes Vx, and the operations on bytes are bit by bit. -/
theorem copyAndBitwiseLogic : Obligations.CopyAndBitwiseLogic := by
  unfold Obligations.CopyAndBitwiseLogic
  intro x y s
  refine ⟨decode_aluWord 0x0 rfl, decode_aluWord 0x1 rfl, decode_aluWord 0x2 rfl, decode_aluWord 0x3 rfl,
    ⟨_, rfl, ?ld, rfl, keeps_setV_advance ..⟩, ⟨_, rfl, fun b => ?or, rfl, keeps_setV_advance ..⟩,
    ⟨_, rfl, fun b => ?and, rfl, keeps_setV_advance ..⟩, ⟨_, rfl, fun b => ?xor, rfl, keeps_setV_advance ..⟩⟩
  case ld => exact s.setV_getV_self x _
  case or => rw [State.advance_getV, State.setV_getV_self, BitVec.getLsbD_or]
  case and => rw [State.advance_getV, State.setV_getV_self, BitVec.getLsbD_and]
  case xor => rw [State.advance_getV, State.setV_getV_self, BitVec.getLsbD_xor]

/-! ### Instructions that write Vx and then a flag (R180 to R184, spec/10_state.md R23) -/

theorem State.writeWithFlag_getV_of_ne (b : Byte) (f : Bool) (hx : x ≠ 15) : (s.writeWithFlag x b f).getV x = b := by
  simp [hx]

/-- The flag is written last, so VF is the flag for x = F too. -/
theorem State.writeWithFlag_getV_flag (b : Byte) (f : Bool) : (s.writeWithFlag x b f).getV 15 = flagByte f := by
  simp

/-- Writing Vx and the flag changes Vx, VF and PC alone. -/
theorem keeps_writeWithFlag (b : Byte) (f : Bool) : Keeps s (s.writeWithFlag x b f) [.reg x, .reg 15, .pc] := by
  simp +contextual [Keeps]

/-- A flag computed as a comparison. -/
theorem flagByte_decide_toNat (p : Prop) [Decidable p] : (flagByte (decide p)).toNat = if p then 1 else 0 := by
  simp only [flagByte_toNat, decide_eq_true_eq]

/-- Settles O14: the sum is modulo 256, the flag is the carry. -/
theorem addSetsTheCarry : Obligations.AddSetsTheCarry := by
  unfold Obligations.AddSetsTheCarry
  intro x y s
  refine ⟨decode_aluWord 0x4 rfl, _, rfl, fun hx => ?sum, ?carry, rfl, keeps_writeWithFlag ..⟩
  case sum => rw [s.writeWithFlag_getV_of_ne x _ _ hx]; exact BitVec.toNat_add ..
  case carry => rw [State.writeWithFlag_getV_flag, carryOut, flagByte_decide_toNat]

/-- The difference of two bytes is that of their numbers modulo 256. -/
theorem byte_sub_toNat (a b : Byte) : ((a - b).toNat : Int) = ((a.toNat : Int) - b.toNat) % 256 := by
  rw [BitVec.toNat_sub]; omega

/-- Settles O15: the two differ in which operand is the minuend. -/
theorem subtractionsSetNoBorrow : Obligations.SubtractionsSetNoBorrow := by
  unfold Obligations.SubtractionsSetNoBorrow
  intro x y s
  refine ⟨decode_aluWord 0x5 rfl, decode_aluWord 0x7 rfl, ⟨_, rfl, fun hx => ?sub, ?subFlag, rfl, keeps_writeWithFlag ..⟩,
    ⟨_, rfl, fun hx => ?subn, ?subnFlag, rfl, keeps_writeWithFlag ..⟩⟩
  case sub | subn => rw [s.writeWithFlag_getV_of_ne x _ _ hx, byte_sub_toNat]
  case subFlag | subnFlag => rw [State.writeWithFlag_getV_flag, noBorrow, flagByte_decide_toNat]

/-- Settles O16: a shift by one halves or doubles, and the flag is the bit it drops. -/
theorem shiftsMoveTheDroppedBitToVF : Obligations.ShiftsMoveTheDroppedBitToVF := by
  unfold Obligations.ShiftsMoveTheDroppedBitToVF
  intro x y s
  refine ⟨decode_aluWord 0x6 rfl, decode_aluWord 0xE rfl, ⟨_, rfl, fun hx => ?half, ?lowBit, rfl, keeps_writeWithFlag ..⟩,
    ⟨_, rfl, fun hx => ?double, ?highBit, rfl, keeps_writeWithFlag ..⟩⟩
  case half => rw [s.writeWithFlag_getV_of_ne x _ _ hx, BitVec.toNat_ushiftRight, Nat.shiftRight_eq_div_pow, pow_one]
  case double => rw [s.writeWithFlag_getV_of_ne x _ _ hx, BitVec.toNat_shiftLeft, Nat.shiftLeft_eq, pow_one]
  case lowBit => rw [State.writeWithFlag_getV_flag, lowBit_toNat]
  case highBit => rw [State.writeWithFlag_getV_flag, highBit_toNat]

/-! ### RND (R185, spec/92_eei_decisions.md D11) -/

/-- Settles O17: Vx is the masked draw, and the draw has been taken. -/
theorem rndMasksAFreeDraw : Obligations.RndMasksAFreeDraw := by
  unfold Obligations.RndMasksAFreeDraw
  intro x kk s
  refine ⟨decode_encode (.rnd x kk), _, rfl, fun b => ?masked, rfl, rfl, ?frame⟩
  case masked => rw [State.advance_getV, State.tookDraw_getV, State.setV_getV_self, BitVec.getLsbD_and, State.drawn]
  case frame => simp +contextual [Keeps]

end Sys2Proof.Machine
end

section
/-! PROOFS. The index register and data memory (spec/44_index_memory.md R200 to R211). -/

namespace Sys2Proof.Machine

variable {s : State} {x : Reg}

/-! ### The words Fxkk (spec/30_encoding.md R83) -/

/-- A word of the group op4 = F, its selector kk written into the opcode. -/
theorem encodeXK_misc (x : Reg) (kk : Nat) : encodeXK 0xF x kk = BitVec.ofNat 16 (0xF000 + kk + x.val * 0x100) :=
  congrArg (BitVec.ofNat 16) (by omega)

/-- The word of ADD I, Fx1E. -/
theorem encode_addI (x : Reg) : encode (.addI x) = BitVec.ofNat 16 (0xF01E + x.val * 0x100) := encodeXK_misc x 0x1E

/-- The word of LD F, Fx29. -/
theorem encode_ldF (x : Reg) : encode (.ldF x) = BitVec.ofNat 16 (0xF029 + x.val * 0x100) := encodeXK_misc x 0x29

/-- The word of LD B, Fx33. -/
theorem encode_ldB (x : Reg) : encode (.ldB x) = BitVec.ofNat 16 (0xF033 + x.val * 0x100) := encodeXK_misc x 0x33

/-- The word of LD [I], Fx55. -/
theorem encode_storeRegs (x : Reg) : encode (.storeRegs x) = BitVec.ofNat 16 (0xF055 + x.val * 0x100) := encodeXK_misc x 0x55

/-- The word of LD Vx,[I], Fx65. -/
theorem encode_loadRegs (x : Reg) : encode (.loadRegs x) = BitVec.ofNat 16 (0xF065 + x.val * 0x100) := encodeXK_misc x 0x65

/-! ### Loads of I (R200, R204) -/

/-- Writing I and going to the next instruction changes I and PC alone. -/
theorem keeps_setI_advance (s : State) (w : Word) : Keeps s (s.setI w).advance [.index, .pc] := by simp [Keeps]

/-- Settles O18: the address is zero-extended into I. -/
theorem ldILoadsTheAddress : Obligations.LdILoadsTheAddress := by
  unfold Obligations.LdILoadsTheAddress
  exact fun nnn s => ⟨decode_encode (.ldI nnn), _, rfl, addr16_toNat nnn, rfl, keeps_setI_advance ..⟩

/-- Five times a byte fits 16 bits (spec/92_eei_decisions.md D10). -/
theorem byte16_mul_five_toNat (b : Byte) : (byte16 b * 5).toNat = b.toNat * 5 := by
  rw [BitVec.toNat_mul, byte16_toNat]
  exact Nat.mod_eq_of_lt (by change b.toNat * 5 < _; omega)

/-- Settles O19: the product does not wrap. -/
theorem ldFPointsAtTheGlyph : Obligations.LdFPointsAtTheGlyph := by
  unfold Obligations.LdFPointsAtTheGlyph
  intro x s
  rw [← encode_ldF]
  exact ⟨decode_encode (.ldF x), _, rfl, byte16_mul_five_toNat _, rfl, keeps_setI_advance ..⟩

/-! ### ADD I,Vx (R202, spec/92_eei_decisions.md D8) -/

/-- With FX1E_VF_IN_RANGE = zero VF is cleared. -/
theorem State.setFlagInRange_of_zero (s : State) (h : s.params.fx1eVf = .zero) :
    s.setFlagInRange.getV 15 = 0 ∧ s.setFlagInRange.draws = s.draws := by
  simp [State.setFlagInRange, h]

/-- With FX1E_VF_IN_RANGE = keep VF is unchanged. -/
theorem State.setFlagInRange_of_keep (s : State) (h : s.params.fx1eVf = .keep) :
    s.setFlagInRange.getV 15 = s.getV 15 ∧ s.setFlagInRange.draws = s.draws := by
  simp [State.setFlagInRange, h]

/-- With FX1E_VF_IN_RANGE = draw VF is the next draw, which has been taken. -/
theorem State.setFlagInRange_of_draw (s : State) (h : s.params.fx1eVf = .draw) :
    s.setFlagInRange.getV 15 = Config.draw8 s.draws ∧ s.setFlagInRange.draws = s.draws + 1 := by
  simp [State.setFlagInRange, h, State.drawn]

/-- Writing I, then VF as the parameter says, changes I, VF, the draws and PC alone. -/
theorem keeps_setI_setFlagInRange_advance (s : State) (w : Word) :
    Keeps s (s.setI w).setFlagInRange.advance [.index, .reg 15, .draws, .pc] := by
  obtain ⟨-, e⟩ | ⟨-, e⟩ | ⟨-, e⟩ := (s.setI w).setFlagInRange_cases <;> rw [e] <;> simp +contextual [Keeps]

/-- A sum above 0xFFF saturates. -/
theorem execAddI_of_saturated (h : s.i.toNat + (s.getV x).toNat > 0xFFF) :
    exec (.addI x) s = .next ((s.setI 0xFFF).setV regF 1).advance := if_pos h

/-- A sum up to 0xFFF is written to I. -/
theorem execAddI_of_inRange (h : s.i.toNat + (s.getV x).toNat ≤ 0xFFF) :
    exec (.addI x) s = .next (s.setI (s.i + byte16 (s.getV x))).setFlagInRange.advance := if_neg (Nat.not_lt.2 h)

/-- Settles O20: a saturated sum by its two writes, one in range by the three values of the parameter. -/
theorem addToIndexSaturates : Obligations.AddToIndexSaturates := by
  unfold Obligations.AddToIndexSaturates
  intro x s
  rw [← encode_addI]
  refine ⟨decode_encode (.addI x), fun hsum => ?saturated, fun hsum => ?inRange⟩
  case saturated => exact ⟨_, execAddI_of_saturated hsum, rfl, State.setV_getV_self _ _ _, rfl, by simp +contextual [Keeps]⟩
  case inRange =>
    let added := s.setI (s.i + byte16 (s.getV x))
    refine ⟨_, execAddI_of_inRange hsum, ?_, added.setFlagInRange_of_zero, added.setFlagInRange_of_keep,
      added.setFlagInRange_of_draw, by simp, keeps_setI_setFlagInRange_advance ..⟩
    rw [State.advance_i, State.setFlagInRange_i, State.setI_i, BitVec.toNat_add, byte16_toNat]; omega

/-! ### The data accesses I .. I + k (R201, spec/20_memory.md R56, spec/92_eei_decisions.md D4) -/

/-- The guard of an access to the bytes I .. I + k. -/
theorem State.dataInRange_succ_iff {k : Nat} : s.dataInRange (k + 1) = true ↔ s.i.toNat + k ≤ 0xFFF := by
  rw [State.dataInRange_iff]; omega

/-- An instruction whose accesses go beyond 0xFFF latches DataOutOfRange and changes nothing else. -/
theorem exec_of_dataOutOfRange {i : Instr} {a : State} {k : Nat}
    (hexec : exec i s = if s.dataInRange (k + 1) then .next a else .next (s.raiseData i)) (hout : s.i.toNat + k > 0xFFF) :
    ∃ t, exec i s = .next t ∧ Keeps s t [.fault] ∧
      t.fault = some ⟨.dataOutOfRange, s.pc, some (encode i), .address (BitVec.ofNat 16 (max s.i.toNat 0x1000))⟩ := by
  have hguard : ¬ s.dataInRange (k + 1) = true := mt State.dataInRange_succ_iff.1 (Nat.not_le.2 hout)
  refine ⟨_, hexec.trans (if_neg hguard), keeps_raise .., ?_⟩
  rw [State.raiseData_eq, State.raise_fault, State.badDataAddress_eq]

/-! ### LD B,Vx (R206) -/

/-- An LD B within memory stores the digits. -/
theorem execLdB_of_inRange (hin : s.i.toNat + 2 ≤ 0xFFF) :
    exec (.ldB x) s = .next (s.storeBytes s.i.toNat (decimalDigits (s.getV x))).advance :=
  if_pos (State.dataInRange_succ_iff.2 hin)

/-- The three bytes from a up after the digits of b are stored there. -/
theorem State.storeBytes_decimalDigits (s : State) (a : Nat) (b : Byte) (j : Fin 3) :
    ((s.storeBytes a (decimalDigits b)).readMem (a + j.val)).toNat = b.toNat / 10 ^ (2 - j.val) % 10 := by
  rw [State.storeBytes_readMem, Memory.read_writeBytes_inside s.mem a (decimalDigits b) j]
  have := b.isLt
  fin_cases j <;> simp [decimalDigits] <;> omega

/-- Settles O21: each digit is the byte its place in the block write says, or the fault is latched. -/
theorem ldBStoresTheDecimalDigits : Obligations.LdBStoresTheDecimalDigits := by
  unfold Obligations.LdBStoresTheDecimalDigits
  intro x s
  rw [← encode_ldB]
  refine ⟨decode_encode (.ldB x), fun hin => ?_, exec_of_dataOutOfRange rfl⟩
  have digit := s.storeBytes_decimalDigits s.i.toNat (s.getV x)
  have hundreds : (s.getV x).toNat / 100 % 10 = (s.getV x).toNat / 100 := by omega
  refine ⟨_, execLdB_of_inRange hin, (digit 0).trans hundreds, digit 1, (digit 2).trans (by simp), fun a ha => ?_, rfl,
    by simp [Keeps]⟩
  exact Memory.read_writeBytes_outside s.mem (by simp [decimalDigits]; omega)

/-! ### LD [I],Vx (R208, spec/92_eei_decisions.md D19) -/

/-- A store within memory writes V0..Vx and advances I. -/
theorem execStoreRegs_of_inRange (hin : s.i.toNat + x.val ≤ 0xFFF) :
    exec (.storeRegs x) s = .next ((s.storeBytes s.i.toNat (s.regsTo x)).setI (s.indexAfter x)).advance :=
  if_pos (State.dataInRange_succ_iff.2 hin)

/-- Where V0..Vx are stored from a up, Vj is at a + j. -/
theorem State.storeBytes_regsTo (s : State) (a : Nat) {j : Reg} (hj : j ≤ x) :
    (s.storeBytes a (s.regsTo x)).readMem (a + j.val) = s.getV j := by
  have hlen : j.val < (s.regsTo x).length := by rw [State.regsTo_length]; exact Nat.lt_succ_of_le hj
  exact (Memory.read_writeBytes_inside s.mem a (s.regsTo x) ⟨j.val, hlen⟩).trans (s.regsTo_getElem x j.val hlen)

/-- Settles O22: each of V0..Vx is at its place in the block write, or the fault is latched. -/
theorem storeRegsWritesV0ToVx : Obligations.StoreRegsWritesV0ToVx := by
  unfold Obligations.StoreRegsWritesV0ToVx
  intro x s
  rw [← encode_storeRegs]
  refine ⟨decode_encode (.storeRegs x), fun hin => ?_, exec_of_dataOutOfRange rfl⟩
  refine ⟨_, execStoreRegs_of_inRange hin, fun j => s.storeBytes_regsTo s.i.toNat, fun a ha => ?_, s.indexAfter_toNat x hin, rfl,
    by simp [Keeps]⟩
  exact Memory.read_writeBytes_outside s.mem (by rw [State.regsTo_length]; omega)

/-! ### LD Vx,[I] (R210, spec/92_eei_decisions.md D19) -/

/-- A load within memory reads V0..Vx and advances I. -/
theorem execLoadRegs_of_inRange (hin : s.i.toNat + x.val ≤ 0xFFF) :
    exec (.loadRegs x) s =
      .next ((s.setRegsTo x fun j => s.readMem (s.i.toNat + j)).setI (s.indexAfter x)).advance :=
  if_pos (State.dataInRange_succ_iff.2 hin)

theorem State.setRegsTo_getV_of_le (s : State) (f : Nat → Byte) {j : Reg} (hj : j ≤ x) :
    (s.setRegsTo x f).getV j = f j.val :=
  (s.setRegsTo_getV x j f).trans (if_pos hj)

/-- Loading V0..Vx and advancing I and PC changes those alone. -/
theorem keeps_setRegsTo_setI_advance (s : State) (x : Reg) (f : Nat → Byte) (w : Word) :
    Keeps s ((s.setRegsTo x f).setI w).advance
      (.index :: .pc :: ((List.finRange 16).filter (fun j => decide (j ≤ x))).map Part.reg) := by
  simp +contextual [Keeps]

/-- Settles O23: each of V0..Vx is the byte at its place, or the fault is latched. -/
theorem loadRegsReadsV0ToVx : Obligations.LoadRegsReadsV0ToVx := by
  unfold Obligations.LoadRegsReadsV0ToVx
  intro x s
  rw [← encode_loadRegs]
  refine ⟨decode_encode (.loadRegs x), fun hin => ?_, exec_of_dataOutOfRange rfl⟩
  refine ⟨_, execLoadRegs_of_inRange hin, fun j hj => ?_, s.indexAfter_toNat x hin, by simp,
    keeps_setRegsTo_setI_advance s x _ _⟩
  rw [State.advance_getV, State.setI_getV, s.setRegsTo_getV_of_le _ hj]

/-! ### Store, then load (R211) -/

/-- Settles O24: the load reads Vj from where the store put it. -/
theorem storeThenLoadGivesTheRegistersBack : Obligations.StoreThenLoadGivesTheRegistersBack := by
  unfold Obligations.StoreThenLoadGivesTheRegistersBack
  intro x s t t' u hin hstore ⟨hi, hmem⟩ hload
  obtain rfl := Host.Outcome.next.inj ((execStoreRegs_of_inRange hin).symm.trans hstore)
  have hin' : t'.i.toNat + x.val ≤ 0xFFF := by rwa [hi]
  obtain rfl := Host.Outcome.next.inj ((execLoadRegs_of_inRange hin').symm.trans hload)
  refine ⟨fun j hj => ?_, s.indexAfter_toNat x hin, congrArg (· + BitVec.ofNat 16 (x.val + 1)) hi⟩
  calc (t'.setRegsTo x fun j => t'.readMem (t'.i.toNat + j)).getV j
    _ = t'.readMem (t'.i.toNat + j.val) := t'.setRegsTo_getV_of_le _ hj
    _ = (s.storeBytes s.i.toNat (s.regsTo x)).readMem (s.i.toNat + j.val) := by rw [State.readMem, hmem, hi]; rfl
    _ = s.getV j := s.storeBytes_regsTo s.i.toNat hj

end Sys2Proof.Machine
end

section
/-! PROOFS. The timers and the key wait (spec/45_timers_input.md R220 to R224). -/

namespace Sys2Proof.Machine

variable {s : State} {x : Reg}

/-! ### The words Fxkk (spec/30_encoding.md R83) -/

/-- The word of LD Vx,DT, Fx07. -/
theorem encode_ldVxDT (x : Reg) : encode (.ldVxDT x) = BitVec.ofNat 16 (0xF007 + x.val * 0x100) := encodeXK_misc x 0x07

/-- The word of LD Vx,K, Fx0A. -/
theorem encode_ldVxK (x : Reg) : encode (.ldVxK x) = BitVec.ofNat 16 (0xF00A + x.val * 0x100) := encodeXK_misc x 0x0A

/-- The word of LD DT,Vx, Fx15. -/
theorem encode_ldDTVx (x : Reg) : encode (.ldDTVx x) = BitVec.ofNat 16 (0xF015 + x.val * 0x100) := encodeXK_misc x 0x15

/-- The word of LD ST,Vx, Fx18. -/
theorem encode_ldSTVx (x : Reg) : encode (.ldSTVx x) = BitVec.ofNat 16 (0xF018 + x.val * 0x100) := encodeXK_misc x 0x18

/-! ### Timers (R220, R223, R224) -/

/-- Writing DT and going to the next instruction changes DT and PC alone. -/
theorem keeps_setDt_advance (s : State) (b : Byte) : Keeps s (s.setDt b).advance [.dt, .pc] := by simp [Keeps]

/-- Writing ST and going to the next instruction changes ST and PC alone. -/
theorem keeps_setSt_advance (s : State) (b : Byte) : Keeps s (s.setSt b).advance [.st, .pc] := by simp [Keeps]

/-- Settles O25: each is one write, then the next instruction. -/
theorem timerInstructionsMoveTheTimers : Obligations.TimerInstructionsMoveTheTimers := by
  unfold Obligations.TimerInstructionsMoveTheTimers
  intro x s
  rw [← encode_ldVxDT, ← encode_ldDTVx, ← encode_ldSTVx]
  exact ⟨decode_encode (.ldVxDT x), decode_encode (.ldDTVx x), decode_encode (.ldSTVx x),
    ⟨_, rfl, s.setV_getV_self x s.dt, rfl, keeps_setV_advance ..⟩, ⟨_, rfl, rfl, rfl, keeps_setDt_advance ..⟩,
    ⟨_, rfl, rfl, rfl, keeps_setSt_advance ..⟩⟩

/-! ### KEY_SELECT and the pressed keys (R221) -/

/-- With no key down nothing is selected. -/
theorem State.selectKey_of_not_keyDown (h : ¬ s.KeyDown) : selectKey s.params s.keys = none :=
  (selectKey_eq_none _ _).2 fun k => Bool.eq_false_iff.2 fun hk => h ⟨k, hk⟩

/-- With a key down one is selected. -/
theorem State.exists_selectKey_of_keyDown (h : s.KeyDown) : ∃ k, selectKey s.params s.keys = some k := by
  obtain ⟨k, hk⟩ := h
  exact Option.ne_none_iff_exists'.1 fun hnone => Bool.eq_false_iff.1 ((selectKey_eq_none _ _).1 hnone k) hk

/-- A register that has just been given a key holds its number. -/
theorem State.setV_keyByte_toNat (s : State) (x : Reg) (k : Key) : ((s.setV x (keyByte k)).getV x).toNat = k.val := by
  rw [State.setV_getV_self, keyByte_toNat]

/-! ### LD Vx,K from mode Ready (R221, spec/92_eei_decisions.md D6, D7, D20) -/

/-- Entering a mode changes MODE alone. -/
theorem keeps_setMode (s : State) (m : Mode) : Keeps s (s.setMode m) [.mode] := by simp [Keeps]

/-- Settles O26: the selected key is stored, or there is none and the engine waits. -/
theorem keyWaitTakesAKeyOrBlocks : Obligations.KeyWaitTakesAKeyOrBlocks := by
  unfold Obligations.KeyWaitTakesAKeyOrBlocks
  intro x s
  rw [← encode_ldVxK]
  refine ⟨decode_encode (.ldVxK x), fun hdown => ?key, fun hup => ?noKey⟩
  case key =>
    obtain ⟨k, hk⟩ := s.exists_selectKey_of_keyDown hdown
    exact ⟨_, k, execLdVxK_of_key hk, selectKey_pressed hk, hk, fun hp _ hj => selectKey_lowest hp hk hj,
      s.setV_keyByte_toNat x k, rfl, keeps_setV_advance ..⟩
  case noKey => exact ⟨_, execLdVxK_of_no_key (s.selectKey_of_not_keyDown hup), rfl, keeps_setMode ..⟩

/-! ### The step of a waiting engine (R222, spec/92_eei_decisions.md D20, D23) -/

/-- A waiting step with a key selected completes the Fx0A. -/
theorem State.awaitStep_of_key {k : Key} (hk : selectKey s.params s.keys = some k) :
    s.awaitStep x = ((s.setV x (keyByte k)).setMode .ready).advance := by
  simp [State.awaitStep, hk]

/-- A waiting step with no key selected changes nothing. -/
theorem State.awaitStep_of_no_key (hk : selectKey s.params s.keys = none) : s.awaitStep x = s := by
  simp [State.awaitStep, hk]

/-- Completing a waiting Fx0A changes Vx, MODE and PC alone. -/
theorem keeps_setV_setMode_advance (s : State) (x : Reg) (b : Byte) (m : Mode) :
    Keeps s ((s.setV x b).setMode m).advance [.reg x, .mode, .pc] := by
  simp +contextual [Keeps]

/-- A step that ends in mode Ready with no fault latched returns Stepped. -/
theorem State.outcome_of_running (h : s.Running) : s.outcome = .stepped := by
  obtain ⟨hf, hm⟩ := h
  simp [State.outcome, hf, hm]

/-- A step that ends in mode AwaitKey with no fault latched returns Blocked. -/
theorem State.outcome_of_waiting (hf : s.fault = none) (hm : s.mode = .awaitKey x) : s.outcome = .blocked := by
  simp [State.outcome, hf, hm]

/-- Settles O27: the key test again, with the two answers of R222. -/
theorem waitingStepCompletesOrStaysBlocked : Obligations.WaitingStepCompletesOrStaysBlocked := by
  unfold Obligations.WaitingStepCompletesOrStaysBlocked
  intro x s hf hm
  rw [step_of_wait hf hm]
  refine ⟨fun hdown => ?key, fun hup => ?noKey⟩
  case key =>
    obtain ⟨k, hk⟩ := s.exists_selectKey_of_keyDown hdown
    rw [State.awaitStep_of_key hk]
    exact ⟨_, k, rfl, selectKey_pressed hk, hk, s.setV_keyByte_toNat x k, rfl, State.outcome_of_running ⟨hf, rfl⟩, rfl,
      keeps_setV_setMode_advance ..⟩
  case noKey =>
    rw [State.awaitStep_of_no_key (s.selectKey_of_not_keyDown hup)]
    exact ⟨rfl, State.outcome_of_waiting hf hm⟩

/-- Executing the Fx0A from mode Ready answers what the waiting step answers: a stored key leaves MODE Ready either way, and with none
the engine is back in AwaitKey(x). -/
theorem execLdVxK_setReady (hm : s.mode = .awaitKey x) : exec (.ldVxK x) (s.setMode .ready) = .next (s.awaitStep x) := by
  cases hk : selectKey s.params s.keys with
  | some k => rw [State.awaitStep_of_key hk]; exact execLdVxK_of_key hk
  | none =>
    have hback : (s.setMode .ready).setMode (.awaitKey x) = s := by rw [← hm]; rfl
    rw [State.awaitStep_of_no_key hk, execLdVxK_of_no_key (s := s.setMode .ready) hk, hback]

/-- Settles O28: the invariant says that PC holds the address of the Fx0A, so the fetch from mode Ready finds it. -/
theorem waitingStepEqualsReexecution : Obligations.WaitingStepEqualsReexecution := by
  unfold Obligations.WaitingStepEqualsReexecution
  intro x s hinv hm
  obtain ⟨hf, hfetch, hdecode⟩ := hinv.waiting x hm
  calc step s
    _ = .next (s.awaitStep x) := step_of_wait hf hm
    _ = exec (.ldVxK x) (s.setMode .ready) := (execLdVxK_setReady hm).symm
    _ = step (s.setMode .ready) := (step_of_decode (s := s.setMode .ready) ⟨hf, rfl⟩ hfetch hdecode).symm

end Sys2Proof.Machine
end

section
/-! PROOFS. The faults of a step (spec/60_exceptions.md R240 to R249): which check an instruction fails, and what a step reports. -/

namespace Sys2Proof.Machine

variable {s t : State} {i : Instr} {x : Reg}

/-! ### The instructions' own checks (R241, R244 to R247) -/

/-- An instruction whose data accesses leave memory latches DataOutOfRange (R246). -/
theorem exec_of_badData {a : State} {len : Nat}
    (hexec : exec i s = if s.dataInRange len then .next a else .next (s.raiseData i)) (hout : ¬ s.dataInRange len = true) :
    exec i s = .next (s.raise .dataOutOfRange (some (encode i)) (.address (BitVec.ofNat 16 (max s.i.toNat 0x1000)))) := by
  rw [hexec, if_neg hout, State.raiseData_eq, State.badDataAddress_eq]

/-- An instruction that fails its own check latches that check's report and changes nothing else. -/
theorem exec_of_ownFault {c : FaultCode} {d : FaultDetail} (h : Claims.ownFault s i = some (c, d)) :
    exec i s = .next (s.raise c (some (encode i)) d) := by
  cases i with
  | call =>
    obtain ⟨hfull, ⟨⟩⟩ := Option.ite_some_none_eq_some.1 h
    exact execCall_of_full hfull
  | ret =>
    obtain ⟨hempty, ⟨⟩⟩ := Option.ite_some_none_eq_some.1 h
    exact execRet_of_empty hempty
  | drw x y n =>
    obtain ⟨hout, ⟨⟩⟩ := Option.ite_some_none_eq_some.1 h
    exact exec_of_badData rfl (by rw [State.dataInRange_rows]; omega)
  | ldB | storeRegs | loadRegs =>
    obtain ⟨hout, ⟨⟩⟩ := Option.ite_some_none_eq_some.1 h
    exact exec_of_badData rfl (by rw [State.dataInRange_succ_iff]; omega)
  | skp =>
    obtain ⟨hbig, ⟨⟩⟩ := Option.ite_some_none_eq_some.1 h
    exact execSkp_of_no_key ((keyOf_eq_none _).2 hbig)
  | sknp =>
    obtain ⟨hbig, ⟨⟩⟩ := Option.ite_some_none_eq_some.1 h
    exact execSknp_of_no_key ((keyOf_eq_none _).2 hbig)
  | _ => cases h -- the others have no check of their own

/-- An instruction that passes its own check answers a next state, with FAULT as it was. -/
theorem exec_of_no_ownFault (h : Claims.ownFault s i = none) : ∃ t, exec i s = .next t ∧ t.fault = s.fault := by
  cases i with
  | call =>
    have hroom : ¬ s.sp.val = 16 := (ite_some_eq_none_iff.1 h).1
    exact ⟨_, execCall_of_room (by omega), rfl⟩
  | ret =>
    have hentry : ¬ s.sp.val = 0 := (ite_some_eq_none_iff.1 h).1
    exact ⟨_, execRet_of_pos (by omega), rfl⟩
  | drw x y n =>
    have hin := (ite_some_eq_none_iff.1 h).1
    exact ⟨_, execDrw_of_inRange ((s.dataInRange_rows n).2 (by omega)), rfl⟩
  | ldB => exact ⟨_, execLdB_of_inRange (Nat.not_lt.1 (ite_some_eq_none_iff.1 h).1), rfl⟩
  | storeRegs => exact ⟨_, execStoreRegs_of_inRange (Nat.not_lt.1 (ite_some_eq_none_iff.1 h).1), rfl⟩
  | loadRegs => exact ⟨_, execLoadRegs_of_inRange (Nat.not_lt.1 (ite_some_eq_none_iff.1 h).1), rfl⟩
  | skp x =>
    cases hk : keyOf (s.getV x) with
    | some k => exact ⟨_, execSkp_of_key hk, rfl⟩
    | none => exact absurd ((keyOf_eq_none _).1 hk) (ite_some_eq_none_iff.1 h).1
  | sknp x =>
    cases hk : keyOf (s.getV x) with
    | some k => exact ⟨_, execSknp_of_key hk, rfl⟩
    | none => exact absurd ((keyOf_eq_none _).1 hk) (ite_some_eq_none_iff.1 h).1
  | ldVxK =>
    cases hk : selectKey s.params s.keys with
    | some k => exact ⟨_, execLdVxK_of_key hk, rfl⟩
    | none => exact ⟨_, execLdVxK_of_no_key hk, rfl⟩
  | addI x =>
    by_cases hs : s.i.toNat + (s.getV x).toNat > 0xFFF
    · exact ⟨_, execAddI_of_saturated hs, rfl⟩
    · exact ⟨_, execAddI_of_inRange (Nat.not_lt.1 hs), by simp⟩
  | _ => exact ⟨_, rfl, rfl⟩ -- the others complete in every state

/-! ### Fetch and decode (R242, R243, spec/20_memory.md R55) -/

/-- The word the fetch reads is the one R55 writes out. -/
theorem fetchedWord_eq_wordAt (s : State) : Claims.fetchedWord s = s.wordAt s.pc.toNat := by
  rw [Claims.fetchedWord, ← wordOfBytes_toNat, BitVec.ofNat_toNat, BitVec.setWidth_eq]
  rfl

theorem State.canFetch_eq_false (h : s.pc.toNat + 1 > 0xFFF) : s.canFetch = false :=
  Bool.eq_false_iff.2 fun hf => Nat.not_lt.2 ((State.canFetch_iff s).1 hf) h

/-- Settles O30: the word at PC is the fetched word, and a step that decodes it is the instruction. -/
theorem stepRunsTheDecodedInstruction : Obligations.StepRunsTheDecodedInstruction := by
  unfold Obligations.StepRunsTheDecodedInstruction
  intro i s hr hpc hd
  rw [fetchedWord_eq_wordAt] at hd
  exact step_of_decode hr ((State.canFetch_iff s).2 hpc) hd

/-- Settles O31: the fetch check fails, and fault entry changes FAULT alone. -/
theorem fetchBeyondMemoryFaults : Obligations.FetchBeyondMemoryFaults := by
  unfold Obligations.FetchBeyondMemoryFaults
  exact fun s hr hpc => ⟨_, step_of_no_fetch hr (State.canFetch_eq_false hpc), rfl, keeps_raise ..⟩

/-- Settles O32: a word that matches no row does not decode. -/
theorem illegalWordsRaiseUndefinedOpcode : Obligations.IllegalWordsRaiseUndefinedOpcode := by
  unfold Obligations.IllegalWordsRaiseUndefinedOpcode
  refine ⟨fun s hr hpc hno => ?_, fun c => by cases c <;> decide⟩
  have hd : decode (Claims.fetchedWord s) = none := (decoderFollowsTheOpcodeMap.1 _).2 hno
  rw [fetchedWord_eq_wordAt] at hd ⊢
  exact ⟨_, step_of_undefined hr ((State.canFetch_iff s).2 hpc) hd, rfl, keeps_raise ..⟩

/-! ### The report of a step (R248, R249) -/

/-- A step from a running state latches the report it is to raise and changes nothing else, or it is to raise none and leaves FAULT
clear. -/
theorem step_running_cases (hr : s.Running) :
    (∃ r, Claims.expectedReport s = some r ∧ step s = .next { s with fault := some r }) ∨
    (Claims.expectedReport s = none ∧ ∃ t, step s = .next t ∧ t.fault = none) := by
  unfold Claims.expectedReport
  rw [fetchedWord_eq_wordAt]
  by_cases hpc : s.pc.toNat + 1 > 0xFFF
  · rw [if_pos hpc]
    exact .inl ⟨_, rfl, step_of_no_fetch hr (State.canFetch_eq_false hpc)⟩
  · have hf : s.canFetch = true := (State.canFetch_iff s).2 (Nat.not_lt.1 hpc)
    rw [if_neg hpc]
    cases hd : decode (s.wordAt s.pc.toNat) with
    | none => exact .inl ⟨_, rfl, step_of_undefined hr hf hd⟩
    | some i =>
      rw [step_of_decode hr hf hd, ← encode_of_decode hd]
      cases ho : Claims.ownFault s i with
      | some cd => exact .inl ⟨_, by simp only [ho], exec_of_ownFault ho⟩
      | none =>
        obtain ⟨t, he, ht⟩ := exec_of_no_ownFault ho
        exact .inr ⟨by simp only [ho], t, he, ht.trans hr.1⟩

/-- A waiting step raises no fault. -/
theorem State.awaitStep_fault (s : State) (x : Reg) : (s.awaitStep x).fault = s.fault := by
  obtain ⟨k, -, e⟩ | ⟨-, e⟩ := s.awaitStep_cases x <;> rw [e]
  rfl

/-- Settles O33: the report to raise is latched, or there is none and FAULT stays clear. -/
theorem stepReportsTheFirstFailedCheck : Obligations.StepReportsTheFirstFailedCheck := by
  unfold Obligations.StepReportsTheFirstFailedCheck
  refine ⟨fun s hr => ?_, fun c => by cases c <;> rfl⟩
  obtain ⟨r, he, hstep⟩ | ⟨he, t, hstep, ht⟩ := step_running_cases hr
  · exact ⟨_, hstep, he.symm⟩
  · exact ⟨t, hstep, ht.trans he.symm⟩

/-- What a step from a running state that ends with a report did. -/
theorem step_of_running_faulted {r : FaultReport} (hr : s.Running) (hstep : step s = .next t) (ht : t.fault = some r) :
    Claims.expectedReport s = some r ∧ t = { s with fault := some r } := by
  obtain ⟨r', he, hstep'⟩ | ⟨-, t', hstep', ht'⟩ := step_running_cases hr <;> cases hstep'.symm.trans hstep
  · cases ht
    exact ⟨he, rfl⟩
  · cases ht'.symm.trans ht

/-- A report names the PC of its step. -/
theorem expectedReport_pc {r : FaultReport} (h : Claims.expectedReport s = some r) : r.pc = s.pc := by
  unfold Claims.expectedReport at h
  split at h
  · cases h; rfl
  · split at h
    · cases h; rfl
    · split at h <;> cases h
      rfl

theorem State.outcome_of_fault {r : FaultReport} (h : s.fault = some r) : s.outcome = .faulted r := by
  simp only [State.outcome, h]

/-- Settles O34: only a step from mode Ready raises a fault, and it then changes FAULT alone. -/
theorem faultEntryIsPrecise : Obligations.FaultEntryIsPrecise := by
  unfold Obligations.FaultEntryIsPrecise
  intro s t r hf hstep ht
  cases hm : s.mode with
  | ready =>
    obtain ⟨he, rfl⟩ := step_of_running_faulted ⟨hf, hm⟩ hstep ht
    exact ⟨by rw [← hf], expectedReport_pc he, State.outcome_of_fault ht⟩
  | awaitKey x =>
    cases (step_of_wait hf hm).symm.trans hstep
    rw [State.awaitStep_fault, hf] at ht
    cases ht

end Sys2Proof.Machine
end

section
/-! PROOFS. Host operations and finite runs of them (spec/60_exceptions.md R250, R251, R257, R264, R266). -/

namespace Sys2Proof.Machine

variable {s t : State}

/-! ### Tick and SetKey (R257, R264) -/

theorem countDown_toNat (b : Byte) : (countDown b).toNat = b.toNat - 1 := by
  unfold countDown
  split
  · subst b; rfl
  · bv_omega

/-- Settles O52: each timer counts down, and the update names no other component. -/
theorem tickCountsBothTimersDown : Obligations.TickCountsBothTimersDown := by
  unfold Obligations.TickCountsBothTimersDown
  exact fun s => ⟨countDown_toNat s.dt, countDown_toNat s.st, by simp [Keeps]⟩

/-- KEY[j] after a SetKey. -/
theorem State.setKey_getElem (s : State) (k j : Key) (b : Bool) :
    (s.setKey k b).keys[j.val] = if j = k then b else s.keys[j.val] := by
  simp only [State.setKey_keys, Vector.getElem_set, ← Fin.ext_iff, eq_comm]

/-- Settles O53: KEY[k] is written, and the update names no other component. -/
theorem setKeyWritesOneKey : Obligations.SetKeyWritesOneKey := by
  unfold Obligations.SetKeyWritesOneKey
  intro s k b
  refine ⟨?_, fun j hj => ?_, by simp [Keeps]⟩
  · rw [State.setKey_getElem, if_pos rfl]
  · rw [State.setKey_getElem, if_neg hj]

/-! ### The CORE never stops by itself (R266, R267) -/

/-- Every step answers a next state. -/
theorem exists_step (s : State) : ∃ t, step s = .next t := by
  cases hf : s.fault with
  | some r => exact ⟨s, step_of_fault hf⟩
  | none =>
    cases hm : s.mode with
    | awaitKey x => exact ⟨_, step_of_wait hf hm⟩
    | ready =>
      obtain ⟨r, -, hstep⟩ | ⟨-, t, hstep, -⟩ := step_running_cases ⟨hf, hm⟩
      · exact ⟨_, hstep⟩
      · exact ⟨t, hstep⟩

/-- Every host operation answers a next state. -/
theorem State.exists_apply (s : State) (op : HostOp) : ∃ t, s.apply op = .next t := by
  cases op with
  | step => exact exists_step s
  | tick | setKey | read => exact ⟨_, rfl⟩

/-- Settles O37: by induction on the operations, each of which answers a next state. -/
theorem everyRunAnswersAState : Obligations.EveryRunAnswersAState := by
  unfold Obligations.EveryRunAnswersAState
  intro s ops
  refine ⟨exists_step s, ?_⟩
  induction ops generalizing s with
  | nil => exact ⟨s, rfl⟩
  | cons op ops ih =>
    obtain ⟨t, ht⟩ := s.exists_apply op
    rw [State.runOps_cons ops ht]
    exact ih t

/-! ### A latched fault (R250, R251, spec/92_eei_decisions.md D3) -/

/-- On a faulted state a Step changes nothing, a Tick changes DT and ST, and a SetKey changes KEY. -/
theorem State.apply_of_fault {r : FaultReport} (h : s.fault = some r) (op : HostOp) :
    ∃ keys dt st, s.apply op = .next { s with keys := keys, dt := dt, st := st } := by
  cases op with
  | step => exact ⟨s.keys, s.dt, s.st, step_of_fault h⟩
  | tick | setKey | read => exact ⟨_, _, _, rfl⟩

/-- A run from a faulted state changes KEY, DT and ST alone. -/
theorem State.runOps_of_fault {r : FaultReport} (h : s.fault = some r) (ops : List HostOp) :
    ∃ keys dt st, s.runOps ops = .next { s with keys := keys, dt := dt, st := st } := by
  induction ops generalizing s with
  | nil => exact ⟨s.keys, s.dt, s.st, rfl⟩
  | cons op ops ih =>
    obtain ⟨keys, dt, st, hop⟩ := State.apply_of_fault h op
    rw [State.runOps_cons ops hop]
    exact ih (s := { s with keys := keys, dt := dt, st := st }) h

/-- Settles O35: KEY, DT and ST are all that a run from a faulted state changes, so the report is still latched. -/
theorem latchedFaultStaysThroughEveryRun : Obligations.LatchedFaultStaysThroughEveryRun := by
  unfold Obligations.LatchedFaultStaysThroughEveryRun
  intro ops s r h
  obtain ⟨keys, dt, st, hrun⟩ := State.runOps_of_fault h ops
  exact ⟨step_of_fault h, State.outcome_of_fault h, _, hrun, h, State.outcome_of_fault h,
    by simp [Keeps, State.getV, State.readMem, State.pixel]⟩

/-- No check of a step looks at FAULT, KEY, DT or ST. -/
theorem expectedReport_congr (s : State) (fault : Option FaultReport) (keys : KeyState) (dt st : Byte) :
    Claims.expectedReport { s with fault := fault, keys := keys, dt := dt, st := st } = Claims.expectedReport s := rfl

/-- Settles O36: since the fault only FAULT, KEY, DT and ST have changed, on which the report does not depend. -/
theorem reexecutionRaisesTheSameFault : Obligations.ReexecutionRaisesTheSameFault := by
  unfold Obligations.ReexecutionRaisesTheSameFault
  intro ops s t u r hr hstep ht hrun
  obtain ⟨he, rfl⟩ := step_of_running_faulted hr hstep ht
  obtain ⟨keys, dt, st, hrun'⟩ := State.runOps_of_fault ht ops
  cases hrun'.symm.trans hrun
  obtain ⟨r', he', hagain⟩ | ⟨he', -⟩ :=
    step_running_cases (s := { s with fault := none, keys := keys, dt := dt, st := st }) ⟨rfl, hr.2⟩
  · rw [expectedReport_congr, he] at he'
    cases he'
    exact hagain
  · rw [expectedReport_congr, he] at he'
    cases he'

/-! ### The invariant (R266, spec/10_state.md R35) -/

theorem State.Inv.tick (h : s.Inv) : s.tick.Inv := h.congr rfl rfl rfl rfl rfl rfl

theorem State.Inv.setKey (h : s.Inv) (k : Key) (b : Bool) : (s.setKey k b).Inv := h.congr rfl rfl rfl rfl rfl rfl

/-- Every host operation keeps the invariant. -/
theorem State.Inv.apply {op : HostOp} (h : s.Inv) (hop : s.apply op = .next t) : t.Inv := by
  cases op with
  | step => exact stepKeepsTheInvariant s t h hop
  | tick => cases hop; exact h.tick
  | setKey k b => cases hop; exact h.setKey k b
  | read => cases hop; exact h

/-- Settles O44: every operation keeps the invariant. -/
theorem everyRunKeepsTheInvariant : Obligations.EveryRunKeepsTheInvariant := by
  unfold Obligations.EveryRunKeepsTheInvariant
  exact fun ops s t h hrun => State.runOps_induct (fun _ _ _ hu hop => hu.apply hop) h hrun

end Sys2Proof.Machine
end

section
/-! PROOFS. Infinite runs (spec/60_exceptions.md R266): each schedule has one, it keeps the invariant, and what fairness brings about. -/

namespace Sys2Proof.Machine

variable {s t : State} {ops : Schedule} {trace : Nat → State}

/-! ### Existence and uniqueness -/

/-- The state after one operation. -/
def State.after (s : State) (op : HostOp) : State :=
  match s.apply op with
  | .next t => t
  | .fault _ => s
  | .refused _ => s

theorem State.apply_eq_after (s : State) (op : HostOp) : s.apply op = .next (s.after op) := by
  obtain ⟨t, ht⟩ := s.exists_apply op
  simp only [State.after, ht]

/-- The states of the run that follows a schedule from s. -/
def State.follow (s : State) (ops : Schedule) : Nat → State
  | 0 => s
  | n + 1 => (s.follow ops n).after (ops n)

theorem State.isRun_follow (s : State) (ops : Schedule) : s.IsRun ops (s.follow ops) :=
  ⟨rfl, fun _ => State.apply_eq_after ..⟩

/-- The first n operations of an infinite run are a finite run. -/
theorem State.IsRun.runOps_eq (h : s.IsRun ops trace) (n : Nat) : s.runOps ((List.range n).map ops) = .next (trace n) := by
  induction n with
  | zero => rw [h.1]; rfl
  | succ n ih =>
    rw [List.range_succ, List.map_append, State.runOps_append _ ih]
    exact State.runOps_cons [] (h.2 n)

/-- Settles O56: following the schedule is a run, and what `runAlong` answers leaves no choice. -/
theorem everyScheduleHasOneInfiniteRun : Obligations.EveryScheduleHasOneInfiniteRun := by
  unfold Obligations.EveryScheduleHasOneInfiniteRun
  intro s ops
  refine ⟨⟨s.follow ops, s.isRun_follow ops, fun trace h => funext fun n => ?unique⟩, fun trace n h => ?firstOps⟩
  case unique => exact Host.Outcome.next.inj ((h.runAlong_eq n).symm.trans ((s.isRun_follow ops).runAlong_eq n))
  case firstOps => exact ⟨h.runAlong_eq n, h.runOps_eq n⟩

/-- Settles O57: every operation keeps the invariant. -/
theorem infiniteRunsKeepTheInvariant : Obligations.InfiniteRunsKeepTheInvariant := by
  unfold Obligations.InfiniteRunsKeepTheInvariant
  exact fun s ops trace hinv h n => h.induct (fun _ _ _ hu hop => hu.apply hop) hinv n

/-! ### A fair key wait (spec/45_timers_input.md R222, spec/92_eei_decisions.md D6) -/

/-- No step writes KEY (spec/10_state.md R32). -/
theorem step_keys (h : step s = .next t) : t.keys = s.keys := by
  obtain ⟨r, -, rfl⟩ | ⟨x, -, -, rfl⟩ | ⟨-, -, rfl⟩ | ⟨-, -, -, rfl⟩ | ⟨i, -, -, -, he⟩ := step_cases h
  · rfl
  · obtain ⟨k, -, e⟩ | ⟨-, e⟩ := s.awaitStep_cases x <;> rw [e]
    rfl
  · rfl
  · rfl
  · obtain ⟨-, -, -, -, -, -, -, -, hkeys⟩ := componentsChangeOnlyByTheirWriters i s t he
    exact hkeys

/-- A pressed key stays pressed through every operation but its release. -/
theorem State.apply_keeps_pressed {op : HostOp} {k : Key} (hk : s.keys[k.val] = true) (hop : op ≠ .setKey k false)
    (h : s.apply op = .next t) : t.keys[k.val] = true := by
  cases op with
  | step => simpa only [step_keys h] using hk
  | tick | read => cases h; exact hk
  | setKey j b =>
    cases h
    rw [State.setKey_getElem]
    split
    · subst j
      exact Bool.eq_true_of_not_eq_false fun hb => hop (by rw [hb])
    · exact hk

/-- A key that is never released again stays pressed. -/
theorem State.IsRun.pressed_of_le {k : Key} {m n : Nat} (h : s.IsRun ops trace) (hk : (trace m).keys[k.val] = true)
    (hheld : ∀ n, m ≤ n → ops n ≠ .setKey k false) (hmn : m ≤ n) : (trace n).keys[k.val] = true := by
  induction n, hmn using Nat.le_induction with
  | base => exact hk
  | succ n hmn ih => exact State.apply_keeps_pressed ih (hheld n hmn) (h.2 n)

/-- The engine waits, at PC = pc, for a key that it stores to Vx. -/
def State.WaitsAt (s : State) (x : Reg) (pc : Word) : Prop := s.fault = none ∧ s.mode = .awaitKey x ∧ s.pc = pc

/-- A step with a key down ends the wait. -/
theorem State.WaitsAt.step_of_keyDown {x : Reg} {pc : Word} (hw : s.WaitsAt x pc) (hdown : s.KeyDown) (h : step s = .next t) :
    t.mode = .ready ∧ t.fault = none ∧ t.pc = pc + 2 := by
  obtain ⟨hf, hm, rfl⟩ := hw
  obtain ⟨k, hk⟩ := State.exists_selectKey_of_keyDown hdown
  cases (step_of_wait hf hm).symm.trans h
  rw [State.awaitStep_of_key hk]
  exact ⟨rfl, hf, rfl⟩

/-- Every other operation leaves the engine waiting. -/
theorem State.WaitsAt.apply {x : Reg} {pc : Word} {op : HostOp} (hw : s.WaitsAt x pc) (hno : ¬ (op = .step ∧ s.KeyDown))
    (h : s.apply op = .next t) : t.WaitsAt x pc := by
  cases op with
  | step =>
    obtain ⟨hf, hm, -⟩ := id hw
    have hup : ¬ s.KeyDown := fun hdown => hno ⟨rfl, hdown⟩
    cases (step_of_wait hf hm).symm.trans h
    rwa [State.awaitStep_of_no_key (State.selectKey_of_not_keyDown hup)]
  | tick | setKey | read => cases h; exact hw

/-- The engine waits until the first step with a key down. -/
theorem State.IsRun.waitsAt {x : Reg} {pc : Word} {n : Nat} (h : s.IsRun ops trace) (hw : s.WaitsAt x pc)
    (hbefore : ∀ m, m < n → ¬ (ops m = .step ∧ (trace m).KeyDown)) {m : Nat} (hmn : m ≤ n) : (trace m).WaitsAt x pc := by
  induction m with
  | zero => rwa [h.1]
  | succ m ih => exact (ih (by omega)).apply (hbefore m hmn) (h.2 m)

/-- Settles O58: the wait ends at the first step with a key down, and fairness brings one after the key was pressed. -/
theorem aFairlySteppedKeyWaitEnds : Obligations.AFairlySteppedKeyWaitEnds := by
  classical
  unfold Obligations.AFairlySteppedKeyWaitEnds
  intro x k s ops trace pressed hf hm h hfair hk hheld
  have hex : ∃ n, ops n = .step ∧ (trace n).KeyDown := by
    obtain ⟨n, hn, hstep⟩ := hfair pressed
    exact ⟨n, hstep, k, h.pressed_of_le hk hheld hn⟩
  obtain ⟨hstep, hdown⟩ := Nat.find_spec hex
  have hwait : ∀ m, m ≤ Nat.find hex → (trace m).WaitsAt x s.pc :=
    fun m hm' => h.waitsAt ⟨hf, hm, rfl⟩ (fun _ => Nat.find_min hex) hm'
  refine ⟨Nat.find hex, hstep, fun m hm' => (hwait m hm').2, ?_⟩
  have hrun := h.2 (Nat.find hex)
  rw [hstep] at hrun
  exact (hwait _ le_rfl).step_of_keyDown hdown hrun

/-! ### A fair delay (R257) -/

/-- An operation that is no Step, or a Step that leaves DT alone, does not raise DT. -/
theorem State.apply_dt_le {op : HostOp} (hstep : op = .step → t.dt = s.dt) (h : s.apply op = .next t) :
    t.dt.toNat ≤ s.dt.toNat := by
  cases op with
  | step => rw [hstep rfl]
  | tick =>
    cases h
    exact (countDown_toNat s.dt).trans_le (Nat.sub_le ..)
  | setKey | read => cases h; exact le_rfl

/-- Settles O59: DT never rises, so from where it is least a Tick, which fairness brings, can only find it at 0. -/
theorem aFairlyTickedDelayEnds : Obligations.AFairlyTickedDelayEnds := by
  unfold Obligations.AFairlyTickedDelayEnds
  intro s ops trace h hfair hsteps
  have hanti : Antitone fun n => (trace n).dt.toNat := antitone_nat_of_succ_le fun n => State.apply_dt_le (hsteps n) (h.2 n)
  obtain ⟨n, hleast⟩ : ∃ n, ∀ m, (trace n).dt.toNat ≤ (trace m).dt.toNat :=
    ⟨Function.argmin fun m => (trace m).dt.toNat, fun m => Function.argmin_le (fun m => (trace m).dt.toNat) m⟩
  obtain ⟨m, hnm, htick⟩ := hfair n
  have hnext : (trace (m + 1)).dt.toNat = (trace m).dt.toNat - 1 := by
    have hrun := h.2 m
    rw [htick] at hrun
    rw [← Host.Outcome.next.inj hrun]
    exact countDown_toNat _
  have hzero : (trace m).dt.toNat = 0 := by
    have hmn : (trace m).dt.toNat ≤ (trace n).dt.toNat := hanti hnm
    have := hleast (m + 1)
    omega
  refine ⟨m, fun j hj => BitVec.eq_of_toNat_eq ?_⟩
  have hjm : (trace j).dt.toNat ≤ (trace m).dt.toNat := hanti hj
  exact Nat.le_zero.1 (hzero ▸ hjm)

end Sys2Proof.Machine
end

section
/-! PROOFS. Every constructed machine meets the invariant, and the one with an empty image and the spec's defaults is the reset state
(spec/70_reset_and_hazards.md R280, R283). -/

namespace Sys2Proof.Machine

variable {image : List Byte} {glyphs : Vector Byte 80} {p : Params} {s : State}

/-! ### What construction answers -/

/-- The memory of an image that fits is canonical: the glyphs end at 0x050, the image at 0x1000 or below. -/
theorem constructMemory_wf (glyphs : Vector Byte 80) (h : image.length ≤ 3584) :
    Memory.wf (constructMemory image glyphs) = true := by
  have hglyphs : 0 + glyphs.toList.length ≤ 4096 := by simp
  have himage : 0x200 + image.length ≤ 4096 := by omega
  exact Memory.writeBytes_keeps_wf image himage (Memory.writeBytes_keeps_wf _ hglyphs Memory.reset_wf)

/-- Construction answers a state only for an image that fits, and then one that differs from reset in MEM and the parameters alone. -/
theorem State.construct_cases (h : State.construct image glyphs p = .ok s) :
    image.length ≤ 3584 ∧ s = { State.reset with mem := constructMemory image glyphs, params := p } := by
  by_cases hlen : image.length ≤ 3584
  · rw [State.construct_of_le glyphs p hlen] at h
    cases h
    exact ⟨hlen, rfl⟩
  · cases (if_pos (Nat.not_le.1 hlen)).symm.trans h

/-- Settles O46: the constructed memory is canonical, and every other component the invariant speaks of is that of reset. -/
theorem constructionMeetsTheInvariant : Obligations.ConstructionMeetsTheInvariant := by
  unfold Obligations.ConstructionMeetsTheInvariant
  intro image glyphs p s h
  obtain ⟨hlen, rfl⟩ := State.construct_cases h
  have hreset : State.reset.Inv := resetMeetsTheInvariant
  exact State.Inv.of_ready rfl (constructMemory_wf glyphs hlen) hreset.index hreset.counter hreset.returns

/-! ### The default glyph table -/

/-- An empty image leaves the memory as the glyphs make it. -/
theorem constructMemory_nil (glyphs : Vector Byte 80) :
    constructMemory [] glyphs = Memory.writeBytes [] 0 glyphs.toList := rfl

/-- No cell is listed when every byte written is what an unlisted cell reads as. -/
theorem Memory.writeBytes_nil_of_initial {a : Nat} {bs : List Byte} (h : ∀ j : Fin bs.length, bs[j.val] = Memory.initial (a + j.val)) :
    Memory.writeBytes [] a bs = [] := by
  induction bs generalizing a with
  | nil => rfl
  | cons b bs ih =>
    have hhead : Memory.write [] a b = [] := if_pos (h ⟨0, by simp⟩)
    rw [Memory.writeBytes, hhead]
    refine ih fun j => ?_
    simpa [Nat.add_assoc, Nat.add_comm 1] using h j.succ

/-- The default glyph table is what memory holds when no cell is listed. -/
theorem Memory.writeBytes_defaultGlyphs : Memory.writeBytes [] 0 defaultGlyphs = [] :=
  Memory.writeBytes_nil_of_initial fun j => by simp [Memory.initial]

/-- Settles O55: the default glyphs list no cell, and the empty image writes nothing. -/
theorem resetIsTheEmptyConstruction : Obligations.ResetIsTheEmptyConstruction := by
  unfold Obligations.ResetIsTheEmptyConstruction
  obtain ⟨glyphs, hglyphs⟩ : ∃ glyphs : Vector Byte 80, glyphs.toList = defaultGlyphs :=
    ⟨⟨defaultGlyphs.toArray, defaultGlyphs_length⟩, rfl⟩
  have hmem : constructMemory [] glyphs = [] := by
    rw [constructMemory_nil, hglyphs, Memory.writeBytes_defaultGlyphs]
  refine ⟨glyphs, hglyphs, ?_⟩
  rw [State.construct_of_le glyphs Params.default (by simp), hmem]
  rfl

end Sys2Proof.Machine
end
